-- ==== Sys2Proof/Word.lean ====
section
/-! DEFINITION. The data word of a transaction (spec/00_scope.md R7, spec/20_memory.md R48). -/

namespace Sys2Proof

/-- Every data access is exactly 32 bits (R48); all values are unsigned (R7). -/
abbrev Word := BitVec 32

end Sys2Proof
end

