-- ==== Sys2Proof/Config.lean ====
section
/-! DEFINITION. What an implementation fixes (the parameters of spec/00_scope.md R6) and the free values. -/

namespace Sys2Proof

/-- The timing class (spec/10_state.md R16). -/
inductive Speed where
  | slow
  | medium
  | fast
  | turbo
deriving DecidableEq, Repr

/-- The parameters of R6 that a model may quantify over. They are constant over a run (R27). -/
structure Params where
  /-- `IDLE_CYCLES`, at least 8 (R140). -/
  idleCycles : Nat
  /-- `WRITE_TRAIL_CYCLES`, at least 2 (R141). -/
  writeTrailCycles : Nat
  /-- `RESET_HIGH_CYCLES`, at least 50 (R161, R164, R168). -/
  resetHighCycles : Nat
  /-- `RESET_LOW_CYCLES`, at least 2 (R161). -/
  resetLowCycles : Nat
  /-- `V2_HIGH_CYCLES`, at least 8 (R164). -/
  v2HighCycles : Nat
  /-- `ACK_OK`, as a value of the LSB-first register `ack` (R70). -/
  ackOk : BitVec 3
  /-- `ACK_WAIT` (R70). -/
  ackWait : BitVec 3
  /-- `ACK_FAULT` (R70). -/
  ackFault : BitVec 3
  /-- `ABORT_ADDR` (R188). -/
  abortAddr : BitVec 8
  /-- `CTRLSTAT_ADDR` (R188). -/
  ctrlstatAddr : BitVec 8
deriving DecidableEq, Repr

/-- The defaults of R6. -/
def Params.default : Params where
  idleCycles := 8
  writeTrailCycles := 2
  resetHighCycles := 50
  resetLowCycles := 2
  v2HighCycles := 8
  ackOk := 1
  ackWait := 2
  ackFault := 4
  abortAddr := 0x00
  ctrlstatAddr := 0x04

/-- A debug-port register address: 4-byte aligned, 0x00 to 0x0C (R6). -/
abbrev Params.dpAddress (a : BitVec 8) : Prop := a.toNat % 4 = 0 ∧ a.toNat ≤ 0x0C

/-- The constraints R6 puts on the parameters. -/
abbrev Params.Constrained (p : Params) : Prop :=
  8 ≤ p.idleCycles ∧ 2 ≤ p.writeTrailCycles ∧ 50 ≤ p.resetHighCycles ∧ 2 ≤ p.resetLowCycles ∧
  8 ≤ p.v2HighCycles ∧ p.ackOk ≠ p.ackWait ∧ p.ackOk ≠ p.ackFault ∧ p.ackWait ≠ p.ackFault ∧
  Params.dpAddress p.abortAddr ∧ Params.dpAddress p.ctrlstatAddr

/-- `TURNAROUND_CYCLES`, fixed at 1 (R6, R103). -/
def Config.turnaroundCycles : Nat := 1

/-- `V2_LOW_CYCLES`, fixed at 4 (R6, R164). -/
def Config.v2LowCycles : Nat := 4

/-- `WAIT_RETRIES`, default 8, copied into `wait_retries` at reset (R6, R18). -/
def Config.waitRetries : Nat := 8

/-- `IDCODE_ADDR`, fixed at 0x00 (R6, R183). -/
def Config.idcodeAddr : BitVec 8 := 0x00

/-- `ABORT_CLEAR_VALUE`, fixed at 0x1E (R6, R188). -/
def Config.abortClearValue : Word := 0x0000001E

/-- `DEFAULT_SPEED` is OPEN in the spec (R17). DESIGN CHOICE (log entry 1): the speed of code 0 (R82). -/
def Config.defaultSpeed : Speed := .turbo

/-- The approximate toggle rate in kHz that R16 and R247 pair with each speed. No rule reads it (R16). -/
def Config.toggleRateKHz : Speed → Nat
  | .slow => 500
  | .medium => 1000
  | .fast => 2000
  | .turbo => 4000

/-- `HALF_PERIOD(speed)`: not a number in the source, and no rule depends on it (R6, R248). -/
opaque Config.halfPeriod : Speed → Nat

/-- The free value of a sample for which the environment has presented no bit: any bit (R44, U6).
DESIGN CHOICE (log entry 3): it is applied to the index of the sampled cycle. -/
opaque Config.freeSample : Nat → Bool

end Sys2Proof
end

