-- ==== Sys2Proof/Syntax.lean ====
section
/-! DEFINITION. The commands and wire fields of spec/opcode_table.json, their operands, and the packets in which they are
given to the command port. -/

namespace Sys2Proof

/-- `port ∈ {DP, AP}` (spec/10_state.md R19). -/
inductive Port where
  | dp
  | ap
deriving DecidableEq, Repr

/-- `direction ∈ {Read, Write}`, with the data of a write (R19). -/
inductive Access where
  | read
  | write (data : Word)
deriving DecidableEq, Repr

/-- The transaction descriptor as the caller gives it (R19). The address is not checked here: an illegal one is
answered `InvalidOperand` (R47, R207). -/
structure Descriptor where
  port : Port
  access : Access
  addr : Nat
  more : Bool
deriving DecidableEq, Repr

/-- `reset_kind` of `connect` (spec/30_encoding.md R83). -/
inductive ResetKind where
  | v1
  | v2
deriving DecidableEq, Repr

/-- The two forms of a turnaround (spec/40_pin_driver.md R101). -/
inductive TrnKind where
  | release
  | retake
deriving DecidableEq, Repr

/-- A data phase: DATA-OUT carries the host's word and its parity; DATA-IN the 32 bits and the parity bit that the
target presents (R72). -/
inductive DataField where
  | dataOut (data : Word)
  | dataIn (data : Word) (parity : Bool)
deriving DecidableEq, Repr

/-- One constructor per row of spec/opcode_table.json, in the table's order. Codes and counts are natural numbers, so
that those outside the legal ranges can be written and are answered `InvalidOperand` (R83, R85, R207). -/
inductive Instr where
  | swdRead (port : Port) (addr : Nat) (more : Bool)
  | swdWrite (port : Port) (addr : Nat) (data : Word) (more : Bool)
  -- the 16 operation bytes (R63): addr[7:4] is the operand `bank`
  | swdWriteDp0 (bank : BitVec 4) (data : Word) (more : Bool)
  | swdWriteDp4 (bank : BitVec 4) (data : Word) (more : Bool)
  | swdWriteDp8 (bank : BitVec 4) (data : Word) (more : Bool)
  | swdWriteDpC (bank : BitVec 4) (data : Word) (more : Bool)
  | swdReadDp0 (bank : BitVec 4) (more : Bool)
  | swdReadDp4 (bank : BitVec 4) (more : Bool)
  | swdReadDp8 (bank : BitVec 4) (more : Bool)
  | swdReadDpC (bank : BitVec 4) (more : Bool)
  | swdWriteAp0 (bank : BitVec 4) (data : Word) (more : Bool)
  | swdWriteAp4 (bank : BitVec 4) (data : Word) (more : Bool)
  | swdWriteAp8 (bank : BitVec 4) (data : Word) (more : Bool)
  | swdWriteApC (bank : BitVec 4) (data : Word) (more : Bool)
  | swdReadAp0 (bank : BitVec 4) (more : Bool)
  | swdReadAp4 (bank : BitVec 4) (more : Bool)
  | swdReadAp8 (bank : BitVec 4) (more : Bool)
  | swdReadApC (bank : BitVec 4) (more : Bool)
  -- the acknowledge (R70, R71): the operand is the transaction that is answered
  | ackOk (d : Descriptor)
  | ackWait (d : Descriptor)
  | ackFault (d : Descriptor)
  | ackProtocol0 (d : Descriptor)
  | ackProtocol3 (d : Descriptor)
  | ackProtocol5 (d : Descriptor)
  | ackProtocol6 (d : Descriptor)
  | ackProtocol7 (d : Descriptor)
  -- the other wire fields (R72, R67, R74)
  | data (f : DataField)
  | trn (k : TrnKind)
  | idle
  -- the line sequences (R161, R164, R168)
  | resetV1
  | resetV2
  | resetV2Jtag
  | swdToDormant
  -- the fixed sequences (R75)
  | seqJtagToSwd
  | seqJtagToDormant
  | seqAlertWord0
  | seqAlertWord1
  | seqAlertWord2
  | seqAlertWord3
  | seqSwdActivation
  | seqSwdToDormant
  -- the commands without a wire pattern
  | setSwdioOut (level : Nat)
  | setSwdioIn
  | clockPulse
  | shiftOut (bits : Word) (n : Nat)
  | shiftIn (n : Nat)
  | clockIdle (n : Nat) (level : Nat)
  | turnaroundRelease
  | turnaroundRetake
  | setSpeed (code : Nat)
  | rawClock (level : Nat) (post : Nat) (count : Nat)
  | connect (kind : ResetKind) (jtagToDormant : Bool)
  | disconnect
  | abortAndClear
deriving DecidableEq, Repr

/-- The command names of R84. -/
inductive CommandName where
  | setSwdioOut
  | setSwdioIn
  | clockPulse
  | shiftOut
  | shiftIn
  | clockIdle
  | turnaroundRelease
  | turnaroundRetake
  | setSpeed
  | rawClock
  | swdRead
  | swdWrite
  | resetV1
  | resetV2
  | swdToDormant
  | connect
  | disconnect
  | abortAndClear
deriving DecidableEq, Repr

/-- What the command port accepts. DESIGN CHOICE (log entry 6): the spec gives the commands no binary encoding (R14: "a
command name and its operands") and the other rows only their wire bits.
A wire packet is a row's bits as a numeral whose bit 0 is first on the wire (R7), with operand words beside them. -/
inductive Packet where
  | wire (width : Nat) (word : Nat) (operands : List Nat)
  | command (name : CommandName) (operands : List Nat)
deriving DecidableEq, Repr

end Sys2Proof
end

