-- ==== Sys2Proof/Machine/Flags.lean ====
section
/-! DEFINITION. The parity functions and the two condition values of the block: the acknowledge outcome and the read
parity check (spec/10_state.md R23). -/

namespace Sys2Proof

/-- The first `n` bits of a value in wire order: bit 0 first (R7, R45). -/
def lsbFirst {w : Nat} (v : BitVec w) (n : Nat) : List Bool :=
  (List.range n).map v.getLsbD

/-- The number whose bits in wire order are `bs`: the first bit is bit 0 (R7, R20). -/
def natOfBits : List Bool → Nat
  | [] => 0
  | b :: bs => b.toNat + 2 * natOfBits bs

/-- A shift-in destination of `w` bits: the first sampled bit in bit 0, unsampled bits 0 (R20, R97). -/
def ofBits (w : Nat) (bs : List Bool) : BitVec w := BitVec.ofNat w (natOfBits bs)

/-- The XOR of all bits (R7). -/
def parity (bs : List Bool) : Bool := bs.foldr xor false

/-- `Par4` (R122). -/
def par4 (apndp rnw a2 a3 : Bool) : Bool := xor (xor apndp rnw) (xor a2 a3)

/-- `Par32` (R123). -/
def par32 (v : Word) : Bool := parity (lsbFirst v 32)

/-- The acknowledge outcome (R23, R127). -/
inductive AckOutcome where
  | ok
  | wait
  | fault
  | protocol
deriving DecidableEq, Repr

/-- `Decode`: total, any value that is none of the three codes is Protocol (R70). -/
def decodeAck (p : Params) (ack : BitVec 3) : AckOutcome :=
  if ack = p.ackOk then .ok
  else if ack = p.ackWait then .wait
  else if ack = p.ackFault then .fault
  else .protocol

/-- The read parity check (R23, R73): the sampled parity bit is that of the sampled word. -/
def parityHolds (rdata : Word) (rpar : Bool) : Bool := par32 rdata == rpar

end Sys2Proof
end

