-- ==== Sys2Proof/Machine/Operands.lean ====
section
/-! DEFINITION. Operand forms: level and speed codes, legal ranges, register addresses, the operation byte, and the fixed
sequences. -/

namespace Sys2Proof

/-- What `clock_idle` and `raw_clock` put on SWDIO (R81). -/
inductive Level where
  | low
  | high
  | input
deriving DecidableEq, Repr

/-- Level codes 0, 1, 2; any other is not defined (R81). -/
def levelOf (code : Nat) : Option Level :=
  if code = 0 then some .low
  else if code = 1 then some .high
  else if code = 2 then some .input
  else none

/-- `set_swdio_out` takes Low or High only (R81, R91). -/
def outLevelOf (code : Nat) : Option Bool :=
  if code = 0 then some false
  else if code = 1 then some true
  else none

/-- Speed codes 0 Turbo, 1 Fast, 2 Medium, 3 Slow; any other is not defined (R82). -/
def speedOf (code : Nat) : Option Speed :=
  if code = 0 then some .turbo
  else if code = 1 then some .fast
  else if code = 2 then some .medium
  else if code = 3 then some .slow
  else none

/-- `n` of the shifts is 0 to 32 (R83). -/
def legalShift (n : Nat) : Bool := decide (n ≤ 32)

/-- `n` of `clock_idle` and `count` of `raw_clock` are 0 to 65535 (R83). -/
def legalCount (n : Nat) : Bool := decide (n ≤ 65535)

/-- `register_addr` is 0x00 to 0xFC, 4-byte aligned (R47). -/
def legalAddr (addr : Nat) : Bool := decide (addr % 4 = 0) && decide (addr ≤ 0xFC)

/-- The address with bits 7:4 `bank` and low nibble `low` (R63, R64). -/
def addrOf (bank : BitVec 4) (low : Nat) : Nat := 16 * bank.toNat + low

/-- APnDP: 1 for AP (R61). -/
def apndpOf : Port → Bool
  | .dp => false
  | .ap => true

/-- RnW: 1 for Read (R61). -/
def rnwOf : Access → Bool
  | .read => true
  | .write _ => false

/-- `OpByte` (R121): park, stop, parity, A[3], A[2], RnW, APnDP, start from bit 7 down. Only bits 3 and 2 of the address
enter (R64). -/
def opByte (port : Port) (access : Access) (addr : BitVec 8) : BitVec 8 :=
  let apndp := apndpOf port
  let rnw := rnwOf access
  let a2 := addr.getLsbD 2
  let a3 := addr.getLsbD 3
  let par := par4 apndp rnw a2 a3
  ofBits 8 [true, apndp, rnw, a2, a3, par, false, true]

/-- The debug-port registers that commands and aliases name (R50, R65). -/
inductive DpRegister where
  | idcode
  | abort
  | ctrlstat
  | select
  | rdbuff
  | targetsel
deriving DecidableEq, Repr

/-- Their addresses (R65). ABORT and CTRL/STAT are parameters; SELECT and RDBUFF are the spec's general-knowledge
addresses (G1), used by no command of the block. -/
def dpAddr (p : Params) : DpRegister → BitVec 8
  | .idcode => Config.idcodeAddr
  | .abort => p.abortAddr
  | .ctrlstat => p.ctrlstatAddr
  | .select => 0x08
  | .rdbuff => 0x0C
  | .targetsel => 0x0C

/-- JTAG to SWD selection, 16 bits (R76). -/
def jtagToSwd : Word := 0xE79E

/-- JTAG to dormant, 31 bits (R77). -/
def jtagToDormant : Word := 0x33BBBBBA

/-- The selection alert, four words in the order shifted (R78). -/
def alertWord0 : Word := 0x6209F392
/-- Second word of the selection alert (R78). -/
def alertWord1 : Word := 0x86852D95
/-- Third word of the selection alert (R78). -/
def alertWord2 : Word := 0xE3DDAFE9
/-- Fourth word of the selection alert (R78). -/
def alertWord3 : Word := 0x19BC0EA2

/-- SWD activation, 8 bits (R79). -/
def swdActivation : Word := 0x1A

/-- SWD to dormant, 16 bits (R80). -/
def swdToDormantSeq : Word := 0xE3BC

/-- Even parity makes the covered field's count of ones even, so a DATA packet is the 32 data bits and then the parity
bit (R66, R72). -/
def dataBits (data : Word) (p : Bool) : List Bool := lsbFirst data 32 ++ [p]

/-- The pseudo-instructions of R84, each an exact expansion. -/
inductive Alias where
  | readDp (reg : Nat) (more : Bool)
  | rawDpRead (reg : Nat) (more : Bool)
  | writeDp (reg : Nat) (v : Word) (more : Bool)
  | rawDpWrite (reg : Nat) (v : Word) (more : Bool)
  | rawApRead (reg : Nat) (more : Bool)
  | rawApWrite (reg : Nat) (v : Word) (more : Bool)
  | readIdcode
  | clearErrors (more : Bool)
  | readErrors (more : Bool)
  | turnaround (k : TrnKind)
  | lineHigh (n : Nat)
  | lineLow (n : Nat)
deriving DecidableEq, Repr

/-- The expansions of R84. -/
def expandAlias (p : Params) : Alias → Instr
  | .readDp reg more => .swdRead .dp reg more
  | .rawDpRead reg more => .swdRead .dp reg more
  | .writeDp reg v more => .swdWrite .dp reg v more
  | .rawDpWrite reg v more => .swdWrite .dp reg v more
  | .rawApRead reg more => .swdRead .ap reg more
  | .rawApWrite reg v more => .swdWrite .ap reg v more
  | .readIdcode => .swdRead .dp 0x00 false
  | .clearErrors more => .swdWrite .dp p.abortAddr.toNat 0x0000001E more
  | .readErrors more => .swdRead .dp p.ctrlstatAddr.toNat more
  | .turnaround .release => .turnaroundRelease
  | .turnaround .retake => .turnaroundRetake
  | .lineHigh n => .clockIdle n 1
  | .lineLow n => .clockIdle n 0

end Sys2Proof
end

