-- ==== Sys2Proof/WellFormed.lean ====
section
/-! DEFINITION. The legal operands of every instruction (spec/30_encoding.md R83, R85; spec/60_exceptions.md R207). An
instruction that is not well formed can be issued, and is answered `InvalidOperand`. -/

namespace Sys2Proof

/-- All operands lie in their legal ranges. -/
def Instr.wellFormed : Instr → Bool
  | .swdRead _ addr _ => legalAddr addr
  | .swdWrite _ addr _ _ => legalAddr addr
  | .swdWriteDp0 _ _ _ => true
  | .swdWriteDp4 _ _ _ => true
  | .swdWriteDp8 _ _ _ => true
  | .swdWriteDpC _ _ _ => true
  | .swdReadDp0 _ _ => true
  | .swdReadDp4 _ _ => true
  | .swdReadDp8 _ _ => true
  | .swdReadDpC _ _ => true
  | .swdWriteAp0 _ _ _ => true
  | .swdWriteAp4 _ _ _ => true
  | .swdWriteAp8 _ _ _ => true
  | .swdWriteApC _ _ _ => true
  | .swdReadAp0 _ _ => true
  | .swdReadAp4 _ _ => true
  | .swdReadAp8 _ _ => true
  | .swdReadApC _ _ => true
  | .ackOk d => legalAddr d.addr
  | .ackWait d => legalAddr d.addr
  | .ackFault d => legalAddr d.addr
  | .ackProtocol0 d => legalAddr d.addr
  | .ackProtocol3 d => legalAddr d.addr
  | .ackProtocol5 d => legalAddr d.addr
  | .ackProtocol6 d => legalAddr d.addr
  | .ackProtocol7 d => legalAddr d.addr
  | .data _ => true
  | .trn _ => true
  | .idle => true
  | .resetV1 => true
  | .resetV2 => true
  | .resetV2Jtag => true
  | .swdToDormant => true
  | .seqJtagToSwd => true
  | .seqJtagToDormant => true
  | .seqAlertWord0 => true
  | .seqAlertWord1 => true
  | .seqAlertWord2 => true
  | .seqAlertWord3 => true
  | .seqSwdActivation => true
  | .seqSwdToDormant => true
  | .setSwdioOut level => (outLevelOf level).isSome
  | .setSwdioIn => true
  | .clockPulse => true
  | .shiftOut _ n => legalShift n
  | .shiftIn n => legalShift n
  | .clockIdle n level => legalCount n && (levelOf level).isSome
  | .turnaroundRelease => true
  | .turnaroundRetake => true
  | .setSpeed code => (speedOf code).isSome
  | .rawClock level post count => (levelOf level).isSome && (levelOf post).isSome && legalCount count
  | .connect _ _ => true
  | .disconnect => true
  | .abortAndClear => true

end Sys2Proof
end

