-- ==== Sys2Proof/Decode.lean ====
section
/-! DEFINITION. From the packets of the command port to instructions, and back. The decoder compares with the literals of
spec/opcode_table.json and the table of R63; the encoder is written from the field rules R61, R66, R76 to R80 and the
sequence rules R161, R164, R168, so that a round trip holds the two against each other. -/

namespace Sys2Proof

/-- Why a packet is no instruction. -/
inductive DecodeError where
  /-- An 8-bit word that is none of the 16 operation bytes, the idle field or the activation sequence (R63, R85). -/
  | notAnOperationByte
  /-- A word whose width and value are those of no row of the table. -/
  | unknownWord
  /-- A DATA-OUT packet whose 33rd bit is not the parity of its data (R66). -/
  | dataParity
  /-- The number of operand words is not that of the row. -/
  | operandCount
  /-- An operand word that is no code of its operand's type. -/
  | operandCode
deriving DecidableEq, Repr

/-- A boolean operand word: 0 or 1 (log entry 6). -/
def boolOf (n : Nat) : Option Bool :=
  if n = 0 then some false else if n = 1 then some true else none

/-- DP = 0, AP = 1 (R83). -/
def portOf (n : Nat) : Option Port :=
  if n = 0 then some .dp else if n = 1 then some .ap else none

/-- A 32-bit operand word. -/
def wordOf (n : Nat) : Option Word :=
  if n < 2 ^ 32 then some (BitVec.ofNat 32 n) else none

/-- addr[7:4] of an operation-byte row. -/
def bankOf (n : Nat) : Option (BitVec 4) :=
  if n < 16 then some (BitVec.ofNat 4 n) else none

/-- V1 = 1, V2 = 2 (log entry 6). -/
def resetKindOf (n : Nat) : Option ResetKind :=
  if n = 1 then some .v1 else if n = 2 then some .v2 else none

/-- Release = 0, retake = 1 (log entry 6). -/
def trnKindOf (n : Nat) : Option TrnKind :=
  if n = 0 then some .release else if n = 1 then some .retake else none

/-- RnW = 1 is Read, RnW = 0 is Write (R83); a read carries no data, so its data word is 0. -/
def accessOf (rnw data : Nat) : Option Access :=
  if rnw = 0 then (wordOf data).map .write
  else if rnw = 1 ∧ data = 0 then some .read
  else none

/-- A missing code is the decoder's `operandCode`. -/
def orCode (i : Option Instr) : Except DecodeError Instr :=
  match i with
  | some i => .ok i
  | none => .error .operandCode

/-- The operands of a read row of R63: bank, more. -/
def readRow (c : BitVec 4 → Bool → Instr) (operands : List Nat) : Except DecodeError Instr :=
  match operands with
  | [bank, more] => orCode (do some (c (← bankOf bank) (← boolOf more)))
  | _ => .error .operandCount

/-- The operands of a write row of R63: bank, data, more. -/
def writeRow (c : BitVec 4 → Word → Bool → Instr) (operands : List Nat) : Except DecodeError Instr :=
  match operands with
  | [bank, data, more] => orCode (do some (c (← bankOf bank) (← wordOf data) (← boolOf more)))
  | _ => .error .operandCount

/-- The operands of an ACK row, the transaction it answers: port, RnW, address, data, more. -/
def ackRow (c : Descriptor → Instr) (operands : List Nat) : Except DecodeError Instr :=
  match operands with
  | [port, rnw, addr, data, more] =>
    orCode (do some (c ⟨← portOf port, ← accessOf rnw data, addr, ← boolOf more⟩))
  | _ => .error .operandCount

/-- A row without operands. -/
def plainRow (i : Instr) (operands : List Nat) : Except DecodeError Instr :=
  match operands with
  | [] => .ok i
  | _ => .error .operandCount

/-- 8-bit words: the 16 operation bytes of R63, the idle field, the activation sequence. A byte with start = 0, stop = 1,
park = 0 or wrong parity is no request (R85). -/
def decodeByte (word : Nat) (operands : List Nat) : Except DecodeError Instr :=
  if word = 0x81 then writeRow .swdWriteDp0 operands else
  if word = 0xA9 then writeRow .swdWriteDp4 operands else
  if word = 0xB1 then writeRow .swdWriteDp8 operands else
  if word = 0x99 then writeRow .swdWriteDpC operands else
  if word = 0xA5 then readRow .swdReadDp0 operands else
  if word = 0x8D then readRow .swdReadDp4 operands else
  if word = 0x95 then readRow .swdReadDp8 operands else
  if word = 0xBD then readRow .swdReadDpC operands else
  if word = 0xA3 then writeRow .swdWriteAp0 operands else
  if word = 0x8B then writeRow .swdWriteAp4 operands else
  if word = 0x93 then writeRow .swdWriteAp8 operands else
  if word = 0xBB then writeRow .swdWriteApC operands else
  if word = 0x87 then readRow .swdReadAp0 operands else
  if word = 0xAF then readRow .swdReadAp4 operands else
  if word = 0xB7 then readRow .swdReadAp8 operands else
  if word = 0x9F then readRow .swdReadApC operands else
  if word = 0x00 then plainRow .idle operands else
  if word = 0x1A then plainRow .seqSwdActivation operands else
  .error .notAnOperationByte

/-- The 3-bit acknowledge words of R70 (defaults) and R71. -/
def decodeAckWord (word : Nat) (operands : List Nat) : Except DecodeError Instr :=
  if word = 1 then ackRow .ackOk operands else
  if word = 2 then ackRow .ackWait operands else
  if word = 4 then ackRow .ackFault operands else
  if word = 0 then ackRow .ackProtocol0 operands else
  if word = 3 then ackRow .ackProtocol3 operands else
  if word = 5 then ackRow .ackProtocol5 operands else
  if word = 6 then ackRow .ackProtocol6 operands else
  if word = 7 then ackRow .ackProtocol7 operands else
  .error .unknownWord

/-- The 33-bit DATA word (R72): operand 0 is DATA-OUT, whose parity bit must be right (R66), 1 is DATA-IN, whose bits are
those the target presents. -/
def decodeData (word : Nat) (operands : List Nat) : Except DecodeError Instr :=
  if 2 ^ 33 ≤ word then .error .unknownWord else
  match operands with
  | [dir] =>
    if dir = 0 then
      if word.testBit 32 = par32 (BitVec.ofNat 32 word) then .ok (.data (.dataOut (BitVec.ofNat 32 word)))
      else .error .dataParity
    else if dir = 1 then .ok (.data (.dataIn (BitVec.ofNat 32 word) (word.testBit 32)))
    else .error .operandCode
  | _ => .error .operandCount

/-- The turnaround, a cycle with no level: its word is 0 and its operand the direction (R67, R101). -/
def decodeTrn (word : Nat) (operands : List Nat) : Except DecodeError Instr :=
  if word ≠ 0 then .error .unknownWord else
  match operands with
  | [k] => orCode ((trnKindOf k).map .trn)
  | _ => .error .operandCount

/-- A wire string of `n` bits written as a binary numeral, first bit on the wire leftmost, as the packet's numeral, whose
bit 0 is first on the wire. -/
def wireNumeral (n : Nat) (s : Nat) : Nat :=
  natOfBits ((List.range n).map fun i => s.testBit (n - 1 - i))

/-- The wire string of `reset_v1` in the table. -/
def tableResetV1 : Nat :=
  wireNumeral 118 0b1111111111111111111111111111111111111111111111111101111001111001111111111111111111111111111111111111111111111111111100

/-- The wire string of `reset_v2` without the optional sequence. -/
def tableResetV2 : Nat :=
  wireNumeral 316 0b1111111111111111111111111111111111111111111111111111111111010010011100111110010000010001101010100110110100101000010110000110010111111101011011101111000111010001010111000000111101100110000000010110001111111111111111111111111111111111111111111111111101111001111001111111111111111111111111111111111111111111111111111100

/-- The wire string of `reset_v2` with the optional sequence. -/
def tableResetV2Jtag : Nat :=
  wireNumeral 347 0b11111111111111111111111111111111111111111111111111010111011101110111011101110011011111111010010011100111110010000010001101010100110110100101000010110000110010111111101011011101111000111010001010111000000111101100110000000010110001111111111111111111111111111111111111111111111111101111001111001111111111111111111111111111111111111111111111111111100

/-- The wire string of `swd_to_dormant`. -/
def tableSwdToDormant : Nat :=
  wireNumeral 66 0b111111111111111111111111111111111111111111111111110011110111000111

/-- 16-bit words (R76, R80). -/
def decodeSeq16 (word : Nat) (operands : List Nat) : Except DecodeError Instr :=
  if word = 0xE79E then plainRow .seqJtagToSwd operands else
  if word = 0xE3BC then plainRow .seqSwdToDormant operands else
  .error .unknownWord

/-- 32-bit words (R78). -/
def decodeSeq32 (word : Nat) (operands : List Nat) : Except DecodeError Instr :=
  if word = 0x6209F392 then plainRow .seqAlertWord0 operands else
  if word = 0x86852D95 then plainRow .seqAlertWord1 operands else
  if word = 0xE3DDAFE9 then plainRow .seqAlertWord2 operands else
  if word = 0x19BC0EA2 then plainRow .seqAlertWord3 operands else
  .error .unknownWord

/-- A wire packet, by its width (R60, R75). -/
def decodeWire (width word : Nat) (operands : List Nat) : Except DecodeError Instr :=
  if width = 1 then decodeTrn word operands else
  if width = 3 then decodeAckWord word operands else
  if width = 8 then decodeByte word operands else
  if width = 16 then decodeSeq16 word operands else
  if width = 31 then (if word = 0x33BBBBBA then plainRow .seqJtagToDormant operands else .error .unknownWord) else
  if width = 32 then decodeSeq32 word operands else
  if width = 33 then decodeData word operands else
  if width = 66 then (if word = tableSwdToDormant then plainRow .swdToDormant operands else .error .unknownWord) else
  if width = 118 then (if word = tableResetV1 then plainRow .resetV1 operands else .error .unknownWord) else
  if width = 316 then (if word = tableResetV2 then plainRow .resetV2 operands else .error .unknownWord) else
  if width = 347 then (if word = tableResetV2Jtag then plainRow .resetV2Jtag operands else .error .unknownWord) else
  .error .unknownWord

/-- A command packet: the name and the operands in the order of R84. -/
def decodeCommand (name : CommandName) (operands : List Nat) : Except DecodeError Instr :=
  match name, operands with
  | .setSwdioOut, [level] => .ok (.setSwdioOut level)
  | .setSwdioIn, [] => .ok .setSwdioIn
  | .clockPulse, [] => .ok .clockPulse
  | .shiftOut, [bits, n] => orCode ((wordOf bits).map (.shiftOut · n))
  | .shiftIn, [n] => .ok (.shiftIn n)
  | .clockIdle, [n, level] => .ok (.clockIdle n level)
  | .turnaroundRelease, [] => .ok .turnaroundRelease
  | .turnaroundRetake, [] => .ok .turnaroundRetake
  | .setSpeed, [code] => .ok (.setSpeed code)
  | .rawClock, [level, post, count] => .ok (.rawClock level post count)
  | .swdRead, [port, addr, more] => orCode (do some (.swdRead (← portOf port) addr (← boolOf more)))
  | .swdWrite, [port, addr, data, more] =>
    orCode (do some (.swdWrite (← portOf port) addr (← wordOf data) (← boolOf more)))
  | .resetV1, [] => .ok .resetV1
  | .resetV2, [jtag] => orCode ((boolOf jtag).map fun j => if j then .resetV2Jtag else .resetV2)
  | .swdToDormant, [] => .ok .swdToDormant
  | .connect, [kind, jtag] => orCode (do some (.connect (← resetKindOf kind) (← boolOf jtag)))
  | .disconnect, [] => .ok .disconnect
  | .abortAndClear, [] => .ok .abortAndClear
  | _, _ => .error .operandCount

/-- The instruction a packet stands for, or the name of what is wrong with it. -/
def decode : Packet → Except DecodeError Instr
  | .wire width word operands => decodeWire width word operands
  | .command name operands => decodeCommand name operands

/-! ### The encoder -/

/-- DP = 0, AP = 1 (R83). -/
def portCode : Port → Nat
  | .dp => 0
  | .ap => 1

/-- A packet whose wire bits are `bs`, first bit leftmost. -/
def wireOf (bs : List Bool) (operands : List Nat) : Packet := .wire bs.length (natOfBits bs) operands

/-- A read by its operation byte (R61), A[3:2] from `low`. -/
def encodeReadRow (port : Port) (low : Nat) (bank : BitVec 4) (more : Bool) : Packet :=
  wireOf (lsbFirst (opByte port .read (BitVec.ofNat 8 (addrOf bank low))) 8) [bank.toNat, more.toNat]

/-- A write by its operation byte (R61). -/
def encodeWriteRow (port : Port) (low : Nat) (bank : BitVec 4) (data : Word) (more : Bool) : Packet :=
  wireOf (lsbFirst (opByte port (.write data) (BitVec.ofNat 8 (addrOf bank low))) 8) [bank.toNat, data.toNat, more.toNat]

/-- The data operand of an access, 0 for a read. -/
def dataCode : Access → Nat
  | .read => 0
  | .write data => data.toNat

/-- An ACK row: the three bits in wire order (R68) and the transaction it answers. -/
def encodeAckRow (bits : List Bool) (d : Descriptor) : Packet :=
  wireOf bits [portCode d.port, (rnwOf d.access).toNat, d.addr, dataCode d.access, d.more.toNat]

/-- The cycles of `reset_v1` under the default parameters (R161). -/
def bitsResetV1 : List Bool :=
  List.replicate 50 true ++ lsbFirst jtagToSwd 16 ++ List.replicate 50 true ++ List.replicate 2 false

/-- The cycles of `reset_v2` under the default parameters (R164). -/
def bitsResetV2 (jtag : Bool) : List Bool :=
  List.replicate 50 true ++ (if jtag then lsbFirst jtagToDormant 31 else []) ++ List.replicate 8 true ++
  lsbFirst alertWord0 32 ++ lsbFirst alertWord1 32 ++ lsbFirst alertWord2 32 ++ lsbFirst alertWord3 32 ++
  List.replicate 4 false ++ lsbFirst swdActivation 8 ++ bitsResetV1

/-- The cycles of `swd_to_dormant` under the default parameters (R168). -/
def bitsSwdToDormant : List Bool := List.replicate 50 true ++ lsbFirst swdToDormantSeq 16

/-- The packet of an instruction. -/
def encode : Instr → Packet
  | .swdRead port addr more => .command .swdRead [portCode port, addr, more.toNat]
  | .swdWrite port addr data more => .command .swdWrite [portCode port, addr, data.toNat, more.toNat]
  | .swdWriteDp0 bank data more => encodeWriteRow .dp 0x0 bank data more
  | .swdWriteDp4 bank data more => encodeWriteRow .dp 0x4 bank data more
  | .swdWriteDp8 bank data more => encodeWriteRow .dp 0x8 bank data more
  | .swdWriteDpC bank data more => encodeWriteRow .dp 0xC bank data more
  | .swdReadDp0 bank more => encodeReadRow .dp 0x0 bank more
  | .swdReadDp4 bank more => encodeReadRow .dp 0x4 bank more
  | .swdReadDp8 bank more => encodeReadRow .dp 0x8 bank more
  | .swdReadDpC bank more => encodeReadRow .dp 0xC bank more
  | .swdWriteAp0 bank data more => encodeWriteRow .ap 0x0 bank data more
  | .swdWriteAp4 bank data more => encodeWriteRow .ap 0x4 bank data more
  | .swdWriteAp8 bank data more => encodeWriteRow .ap 0x8 bank data more
  | .swdWriteApC bank data more => encodeWriteRow .ap 0xC bank data more
  | .swdReadAp0 bank more => encodeReadRow .ap 0x0 bank more
  | .swdReadAp4 bank more => encodeReadRow .ap 0x4 bank more
  | .swdReadAp8 bank more => encodeReadRow .ap 0x8 bank more
  | .swdReadApC bank more => encodeReadRow .ap 0xC bank more
  | .ackOk d => encodeAckRow [true, false, false] d
  | .ackWait d => encodeAckRow [false, true, false] d
  | .ackFault d => encodeAckRow [false, false, true] d
  | .ackProtocol0 d => encodeAckRow [false, false, false] d
  | .ackProtocol3 d => encodeAckRow [true, true, false] d
  | .ackProtocol5 d => encodeAckRow [true, false, true] d
  | .ackProtocol6 d => encodeAckRow [false, true, true] d
  | .ackProtocol7 d => encodeAckRow [true, true, true] d
  | .data (.dataOut data) => .wire 33 (data.toNat + 2 ^ 32 * (par32 data).toNat) [0]
  | .data (.dataIn data p) => .wire 33 (data.toNat + 2 ^ 32 * p.toNat) [1]
  | .trn .release => .wire 1 0 [0]
  | .trn .retake => .wire 1 0 [1]
  | .idle => wireOf (List.replicate 8 false) []
  | .resetV1 => wireOf bitsResetV1 []
  | .resetV2 => wireOf (bitsResetV2 false) []
  | .resetV2Jtag => wireOf (bitsResetV2 true) []
  | .swdToDormant => wireOf bitsSwdToDormant []
  | .seqJtagToSwd => wireOf (lsbFirst jtagToSwd 16) []
  | .seqJtagToDormant => wireOf (lsbFirst jtagToDormant 31) []
  | .seqAlertWord0 => wireOf (lsbFirst alertWord0 32) []
  | .seqAlertWord1 => wireOf (lsbFirst alertWord1 32) []
  | .seqAlertWord2 => wireOf (lsbFirst alertWord2 32) []
  | .seqAlertWord3 => wireOf (lsbFirst alertWord3 32) []
  | .seqSwdActivation => wireOf (lsbFirst swdActivation 8) []
  | .seqSwdToDormant => wireOf (lsbFirst swdToDormantSeq 16) []
  | .setSwdioOut level => .command .setSwdioOut [level]
  | .setSwdioIn => .command .setSwdioIn []
  | .clockPulse => .command .clockPulse []
  | .shiftOut bits n => .command .shiftOut [bits.toNat, n]
  | .shiftIn n => .command .shiftIn [n]
  | .clockIdle n level => .command .clockIdle [n, level]
  | .turnaroundRelease => .command .turnaroundRelease []
  | .turnaroundRetake => .command .turnaroundRetake []
  | .setSpeed code => .command .setSpeed [code]
  | .rawClock level post count => .command .rawClock [level, post, count]
  | .connect .v1 jtag => .command .connect [1, jtag.toNat]
  | .connect .v2 jtag => .command .connect [2, jtag.toNat]
  | .disconnect => .command .disconnect []
  | .abortAndClear => .command .abortAndClear []

/-! ### Words numbered as the opcode table numbers them -/

/-- The packets a word of `nbits` bits can be: the table gives widths that are not whole bytes (3, 31, 33 bits), so the
widest row first, then narrower ones whose dropped bits are 0; and operand words, which the table gives no bits, are 0. The
rows wider than 33 bits stand in the table as a wire string alone, so their numeral is tried with either end first. -/
def tableCandidates (nbits w : Nat) : List Packet :=
  ((List.range 8).map fun k => nbits - k).flatMap fun width =>
    if 2 ^ width ≤ w then []
    else if width ≤ 33 then (List.range 6).map fun n => .wire width w (List.replicate n 0)
    else [.wire width w [], .wire width (wireNumeral width w) []]

/-- The first of the candidates that the decoder accepts; the word as it stands where it accepts none. -/
def firstAccepted (nbits w : Nat) : List Packet → Packet
  | [] => .wire nbits w []
  | k :: ks =>
    match decode k with
    | .ok _ => k
    | .error _ => firstAccepted nbits w ks

/-- The packet of a table word. -/
def tablePacket (nbits w : Nat) : Packet := firstAccepted nbits w (tableCandidates nbits w)

/-- The instruction the decoder reads from a table word. -/
def decodeTableWord (nbits w : Nat) : Option Instr :=
  match decode (tablePacket nbits w) with
  | .ok i => some i
  | .error _ => none

end Sys2Proof
end

