-- ==== Sys2Proof/Machine/State.lean ====
section
/-! DEFINITION. The state of the block (spec/10_state.md R10 and the rules named at each field), and its reset. -/

namespace Sys2Proof.Machine

/-- Whether the block drives SWDIO or has released it (R12). -/
inductive PinDir where
  | out
  | inp
deriving DecidableEq, Repr

/-- The connection state machine (R24, spec/43_connection_fsm.md R180). -/
inductive ConnState where
  | disconnected
  | resetting
  | idCodeRead
  | connected
  | faulted
deriving DecidableEq, Repr

/-- The sequencer's place in a transaction (R22). -/
inductive Phase where
  | idle
  | request
  | trnRelease
  | ack
  | dataIn
  | trnRetake
  | dataOut
  | trail
deriving DecidableEq, Repr

/-- The host's hold on SWDIO at a rising edge (spec/20_memory.md R42). -/
inductive Hold where
  | l
  | h
  | z
deriving DecidableEq, Repr

/-- One clock cycle of the wire trace: the host's hold, and the sampled bit if any (R42). -/
structure Cycle where
  hold : Hold
  sample : Option Bool
deriving DecidableEq, Repr

/-- The transaction descriptor and the working registers (R19, R20). They hold no value between commands (R21), and
`ack`, `rdata`, `rpar` hold none before the shift-in that writes them in the current attempt. -/
structure Txn where
  /-- `t_port`. -/
  port : Port
  /-- `t_dir` and, for a write, `t_wdata`. -/
  access : Access
  /-- `t_addr`. -/
  addr : BitVec 8
  /-- `t_more`. -/
  more : Bool
  /-- `op_byte`. -/
  opByte : BitVec 8
  /-- `ack`. -/
  ack : Option (BitVec 3)
  /-- `rdata`. -/
  rdata : Option Word
  /-- `rpar`. -/
  rpar : Option Bool
  /-- `tries`. -/
  tries : Nat
deriving DecidableEq, Repr

/-- The error outcomes of a command, a closed enumeration (spec/60_exceptions.md R206, R221). -/
inductive CommandError where
  | waitAcknowledge
  | faultAcknowledge
  | badAcknowledge (raw : BitVec 3)
  | readParityError
  | invalidOperand
deriving DecidableEq, Repr

/-- The one result with which a command is answered (R14, R200). -/
inductive Reply where
  /-- Success without a value. -/
  | done
  /-- Success with a 32-bit value. -/
  | word (v : Word)
  /-- One error outcome with its detail. -/
  | error (e : CommandError)
deriving DecidableEq, Repr

/-- A fault of the model. Safe: it stops where the spec gives no value. -/
inductive Fault where
  /-- A read of a transaction or working register that holds no value (R21). R21 asks for this fault and says that no rule
  makes such a read: no meaning raises it. -/
  | noValue
deriving DecidableEq, Repr

/-- Why the model gives a command no next state. Every reason is safe: the block would go on. -/
inductive Refusal where
  /-- Raised by an arm of `exec` whose instruction has no meaning yet; no arm does. Safe. -/
  | notModelled (mnemonic : String)
  /-- Raised by `step`: the packet at the command port is no command or wire field of the spec. Safe. -/
  | undecodable (e : DecodeError)
  /-- Raised by every meaning: a command is accepted when no command is in progress (R14). Safe. -/
  | commandInProgress
  /-- Raised by the meanings that clock: `clock_pulse` requires `swclk = 0`, which always holds (R93, R108). Safe. -/
  | swclkNotLow
  /-- Raised by `shift_in`, `turnaround_retake` and the fields TRN (retake) and DATA (in): they require SWDIO released
  (R97, R105, R108; U4). Safe. -/
  | swdioDriven
  /-- Raised by the transactions: in Faulted the next transaction must be the ABORT write (R192, R236; U1). Safe. -/
  | abortWriteOwed
  /-- Raised by every meaning that is neither a transaction nor a line sequence: the transaction before it had `more` true
  (R238; U2). Safe. -/
  | successorOwed
deriving DecidableEq, Repr

/-- The state. -/
structure State where
  /-- The level on SWCLK (R11). -/
  swclk : Bool
  /-- `swdio_dir` (R12). -/
  swdioDir : PinDir
  /-- `swdio_out` (R12). -/
  swdioOut : Bool
  /-- `speed` (R16). -/
  speed : Speed
  /-- `wait_retries` (R18). -/
  waitRetries : Nat
  /-- `conn_state` (R24). -/
  connState : ConnState
  /-- `idcode` (R25). -/
  idcode : Option Word
  /-- `ack_count` (R26). -/
  ackCount : Nat
  /-- The transaction and working registers; none between commands (R19 to R21). -/
  txn : Option Txn
  /-- The sequencer phase (R22). -/
  phase : Phase
  /-- The wire trace since reset, first cycle first (R30). -/
  trace : List Cycle
  /-- The commands issued and not yet accepted, oldest first (R14, R55). -/
  port : List Packet
  /-- The result of the last command; none before the first (R14, R200). -/
  reply : Option Reply
  /-- The environment's input: the bits the target presents in the coming sampled cycles (R13, R44). -/
  line : List Bool
  /-- The model's own: the index of the next sampled cycle, for the free value where `line` gives none (log entry 3). -/
  draws : Nat
  /-- The model's own: the last command was a transaction with `more` true (R238, log entry 4). -/
  moreOwed : Bool
  /-- The implementation parameters, constant over a run (R6, R27). -/
  params : Params
deriving DecidableEq, Repr

/-- The instant before the first command (R28, R230, R231). `speed`, `line` and `draws` are DESIGN CHOICES (log entries 1
and 3). -/
def State.reset : State where
  swclk := false
  swdioDir := .out
  swdioOut := false
  speed := Config.defaultSpeed
  waitRetries := Config.waitRetries
  connState := .disconnected
  idcode := none
  ackCount := 0
  txn := none
  phase := .idle
  trace := []
  port := []
  reply := none
  line := []
  draws := 0
  moreOwed := false
  params := Params.default

end Sys2Proof.Machine
end

