-- ==== Sys2Proof/Machine/Ops.lean ====
section
/-! DEFINITION. The shared operations: pin actions, cycles and shifts (spec/40_pin_driver.md), the attempt and the
transaction (spec/41_link_transaction.md), the line sequences (spec/42_line_sequences.md), outcome tracking, the answer of a
command and the checks before it is accepted. -/

namespace Sys2Proof.Machine

/-! ### Pin actions -/

/-- `Drive(level)` (R91). -/
def drive (level : Bool) (s : State) : State := { s with swdioDir := .out, swdioOut := level }

/-- `Release()` (R92): `swdio_out` keeps its value. -/
def release (s : State) : State := { s with swdioDir := .inp }

/-- The host's hold on SWDIO (R42). -/
def holdOf (s : State) : Hold :=
  match s.swdioDir with
  | .inp => .z
  | .out => if s.swdioOut then .h else .l

/-- `Cycle(h, s)` (R8): one more cycle of the wire trace. -/
def record (c : Cycle) (s : State) : State := { s with trace := s.trace ++ [c] }

/-- `Rise()` (R93). -/
def rise (s : State) : State := { s with swclk := true }

/-- `Fall()` (R93). -/
def fall (s : State) : State := { s with swclk := false }

/-- `clock_pulse()` (R93): recorded at the rising edge, not sampled. -/
def pulse (s : State) : State := fall (rise (record ⟨holdOf s, none⟩ s))

/-- `repeat n: clock_pulse()`. -/
def pulses : Nat → State → State
  | 0, s => s
  | n + 1, s => pulses n (pulse s)

/-- One host-driven bit (R94). -/
def writeBit (s : State) (b : Bool) : State := pulse (drive b s)

/-- Host-driven bits in wire order. -/
def writeBits (bs : List Bool) (s : State) : State := bs.foldl writeBit s

/-- The bit on the line in the next sampled cycle: what the target presents, or else any bit (R44, U6). -/
def nextBit (s : State) : Bool :=
  match s.line with
  | b :: _ => b
  | [] => Config.freeSample s.draws

/-- `Sample()` uses up the environment's bit (R44). -/
def takeBit (s : State) : State := { s with line := s.line.tail, draws := s.draws + 1 }

/-- The cycle of one sampled bit (R95, R97): sampled while SWCLK is low, then the two edges. -/
def sampleCycle (s : State) : State := fall (rise (record ⟨.z, some (nextBit s)⟩ (takeBit s)))

/-- The bits sampled in the next `n` sampled cycles, first bit first. -/
def sampledBits : Nat → State → List Bool
  | 0, _ => []
  | n + 1, s => nextBit s :: sampledBits n (sampleCycle s)

/-- The state after `n` sampled cycles. -/
def sampleCycles : Nat → State → State
  | 0, s => s
  | n + 1, s => sampleCycles n (sampleCycle s)

/-! ### The shift helpers, the idle clock, the turnaround -/

/-- `shift_out(bits, n)` (R96): LSB first; nothing at all for n = 0. -/
def shiftOut (bits : Word) (n : Nat) (s : State) : State := writeBits (lsbFirst bits n) s

/-- The result of `shift_in(n)` (R97): first sampled bit in bit 0, the others 0. -/
def shiftInValue (n : Nat) (s : State) : Word := ofBits 32 (sampledBits n s)

/-- The state change of `shift_in(n)` (R97). -/
def shiftIn (n : Nat) (s : State) : State := sampleCycles n s

/-- The line state of a level (R98, R107). -/
def setLevel (level : Level) (s : State) : State :=
  match level with
  | .low => drive false s
  | .high => drive true s
  | .input => release s

/-- `clock_idle(n, level)` (R98). -/
def clockIdle (n : Nat) (level : Level) (s : State) : State := pulses n (setLevel level s)

/-- `turnaround_release()` (R104): release, then the clock. -/
def turnaroundRelease (s : State) : State := pulses Config.turnaroundCycles (release s)

/-- `turnaround_retake()` (R105): the clock with SWDIO still released, then drive low. -/
def turnaroundRetake (s : State) : State := drive false (pulses Config.turnaroundCycles s)

/-! ### The sequencer and the transaction registers -/

/-- The sequencer enters a phase of a transaction (R22). DESIGN CHOICE (log entry 19): nothing but a transaction enters one, so
the phase stays Idle in a pin command, in a line sequence, and in `connect` and `abort_and_clear` outside their transactions. -/
def enter (p : Phase) (s : State) : State := { s with phase := p }

/-- The command loads the transaction registers (R143 to R145). -/
def loadTxn (t : Txn) (s : State) : State := { s with txn := some t }

/-- A working register is written (R20). -/
def updateTxn (f : Txn → Txn) (s : State) : State := { s with txn := s.txn.map f }

/-- The registers as loaded: the operation byte assembled, no attempt made (R20, R143). -/
def newTxn (port : Port) (access : Access) (addr : BitVec 8) (more : Bool) : Txn where
  port := port
  access := access
  addr := addr
  more := more
  opByte := opByte port access addr
  ack := none
  rdata := none
  rpar := none
  tries := 0

/-- The transaction ends: the registers hold no value (R21), and the phase is Idle (R22), also between the transactions of
`abort_and_clear` and in the rest of `connect` (log entry 19). -/
def endTxn (s : State) : State := { s with phase := .idle, txn := none }

/-! ### One attempt -/

/-- The result of an attempt (R134). -/
inductive AttemptResult where
  | okRead (rdata : Word)
  | okWrite
  | wait
  | fault
  | protocol (ack : BitVec 3)
  | parityBad
deriving DecidableEq, Repr

/-- A new attempt has sampled nothing yet (R21). -/
def startAttempt (s : State) : State := updateTxn (fun t => { t with ack := none, rdata := none, rpar := none }) s

/-- Request phase and first turnaround (R124, R125). -/
def requestPhase (t : Txn) (s : State) : State :=
  turnaroundRelease (enter .trnRelease (shiftOut (t.opByte.setWidth 32) 8 (enter .request (startAttempt s))))

/-- The acknowledge as it will be sampled (R68, R126). -/
def ackValue (s : State) : BitVec 3 := ofBits 3 (sampledBits 3 s)

/-- The ACK phase is counted and `ack` written (R26, R126). -/
def noteAck (ack : BitVec 3) (s : State) : State :=
  updateTxn (fun t => { t with ack := some ack, tries := t.tries + 1 }) { s with ackCount := s.ackCount + 1 }

/-- Acknowledge phase (R126). -/
def ackPhase (s : State) : State := noteAck (ackValue s) (shiftIn 3 (enter .ack s))

/-- The turnaround in which the host takes the line back (R128 to R132). -/
def retakePhase (s : State) : State := turnaroundRetake (enter .trnRetake s)

/-- The word of a DATA-IN phase (R72). -/
def dataInWord (s : State) : Word := shiftInValue 32 s

/-- The parity bit of a DATA-IN phase (R72). -/
def dataInParity (s : State) : Bool := nextBit (shiftIn 32 s)

/-- The 33 sampled cycles of a DATA-IN phase, written to `rdata` and `rpar` (R72, R128). -/
def dataInPhase (s : State) : State :=
  updateTxn (fun t => { t with rdata := some (dataInWord s), rpar := some (dataInParity s) })
    (shiftIn 1 (shiftIn 32 (enter .dataIn s)))

/-- The result of a DATA-IN phase (R128, R133): a parity failure keeps the word from the caller. -/
def dataInResult (s : State) : AttemptResult :=
  if parityHolds (dataInWord s) (dataInParity s) then .okRead (dataInWord s) else .parityBad

/-- The 33 host-driven cycles of a DATA-OUT phase (R66, R72, R129). -/
def shiftOutData (data : Word) (s : State) : State :=
  shiftOut ((BitVec.ofBool (par32 data)).setWidth 32) 1 (shiftOut data 32 s)

/-- Everything after the ACK phase (R128 to R132), for the acknowledge `ack`. -/
def dispatch (t : Txn) (ack : BitVec 3) (s : State) : AttemptResult × State :=
  match decodeAck s.params ack, t.access with
  | .ok, .read => (dataInResult s, retakePhase (dataInPhase s))
  | .ok, .write data => (.okWrite, shiftOutData data (enter .dataOut (retakePhase s)))
  | .wait, _ => (.wait, retakePhase s)
  | .fault, _ => (.fault, retakePhase s)
  | .protocol, _ => (.protocol ack, retakePhase s)

/-- The attempt, whole (R135). -/
def attempt (t : Txn) (s : State) : AttemptResult × State :=
  dispatch t (ackValue (requestPhase t s)) (ackPhase (requestPhase t s))

/-! ### Retry, trailing idle, outcome tracking, the transaction -/

/-- Attempts until one is not WAIT or the retries are used up (R137): `retries` is how many retries are still allowed, so
that `tries - 1 < wait_retries` reads `retries > 0`. The next attempt starts at once. -/
def attempts (t : Txn) : Nat → State → AttemptResult × State
  | 0, s => attempt t s
  | retries + 1, s =>
    match attempt t s with
    | (.wait, s') => attempts t retries s'
    | (r, s') => (r, s')

/-- The trailing idle (R140 to R142): it depends on `more`, and with `more` true only a write that sent its data gets any;
otherwise nothing at all, not even a level change. -/
def trail (t : Txn) (r : AttemptResult) (s : State) : State :=
  if t.more then
    match r with
    | .okWrite => clockIdle s.params.writeTrailCycles .low (enter .trail s)
    | _ => s
  else clockIdle s.params.idleCycles .low (enter .trail s)

/-- The connection state machine moves (R180). -/
def setConn (c : ConnState) (s : State) : State := { s with connState := c }

/-- `NoteOutcome(r)` (R190, R191). -/
def noteOutcome (r : AttemptResult) (s : State) : State :=
  match s.connState, r with
  | .connected, .fault => setConn .faulted s
  | .connected, .protocol _ => setConn .faulted s
  | _, _ => s

/-- How a transaction ends (R137 to R139, R143, R201 to R204). -/
def replyOf : AttemptResult → Reply
  | .okRead v => .word v
  | .okWrite => .done
  | .wait => .error .waitAcknowledge
  | .fault => .error .faultAcknowledge
  | .protocol ack => .error (.badAcknowledge ack)
  | .parityBad => .error .readParityError

/-- The end of a transaction: trailing idle, outcome tracking, registers given up (R143). -/
def finishTxn (t : Txn) (r : AttemptResult) (s : State) : State := endTxn (noteOutcome r (trail t r s))

/-- `Transact()` (R143): the answer and the state. -/
def transact (t : Txn) (s : State) : Reply × State :=
  match attempts t s.waitRetries (loadTxn t s) with
  | (r, s') => (replyOf r, finishTxn t r s')

/-! ### The line sequences -/

/-- `reset_v1()` (R161). -/
def lineResetV1 (s : State) : State :=
  clockIdle s.params.resetLowCycles .low
    (clockIdle s.params.resetHighCycles .high
      (shiftOut jtagToSwd 16
        (clockIdle s.params.resetHighCycles .high s)))

/-- The optional first sequence of `reset_v2` (R164, R165). -/
def optionalJtagToDormant (jtag : Bool) (s : State) : State :=
  if jtag then shiftOut jtagToDormant 31 s else s

/-- The selection alert: four words in the order written (R78, R164). -/
def selectionAlert (s : State) : State :=
  shiftOut alertWord3 32 (shiftOut alertWord2 32 (shiftOut alertWord1 32 (shiftOut alertWord0 32 s)))

/-- `reset_v2(jtag_to_dormant)` (R164). -/
def lineResetV2 (jtag : Bool) (s : State) : State :=
  lineResetV1
    (shiftOut swdActivation 8
      (clockIdle Config.v2LowCycles .low
        (selectionAlert
          (clockIdle s.params.v2HighCycles .high
            (optionalJtagToDormant jtag
              (clockIdle s.params.resetHighCycles .high s))))))

/-- `swd_to_dormant()` (R168, R169): the line is set low at the end without a clock. -/
def lineToDormant (s : State) : State :=
  drive false (shiftOut swdToDormantSeq 16 (clockIdle s.params.resetHighCycles .high s))

/-! ### Answering and accepting a command -/

/-- The one result of a command (R14, R200). -/
def answer (r : Reply) (s : State) : State := { s with reply := some r }

/-- An error outcome raised before any action: only the answer is new (R207). -/
def invalidOperand (s : State) : Host.Outcome State Fault Refusal := .next (answer (.error .invalidOperand) s)

/-- The burst of transactions is closed, or goes on after a transaction with `more` true (R238). -/
def setMoreOwed (more : Bool) (s : State) : State := { s with moreOwed := more }

/-- A command is accepted when none is in progress (R14); with SWCLK low if it clocks (R93, R108). -/
def accept (clocks : Bool) (s : State) (go : State) : Host.Outcome State Fault Refusal :=
  if s.phase ≠ .idle then .refused .commandInProgress
  else if clocks && s.swclk then .refused .swclkNotLow
  else .next go

/-- A command that is neither a transaction nor a line sequence may not follow a transaction with `more` true (R238). -/
def acceptPin (clocks : Bool) (s : State) (go : State) : Host.Outcome State Fault Refusal :=
  if s.moreOwed then .refused .successorOwed else accept clocks s go

/-- A pin command that requires SWDIO released (R108). -/
def acceptReleased (clocks : Bool) (s : State) (go : State) : Host.Outcome State Fault Refusal :=
  if s.moreOwed then .refused .successorOwed
  else
    match s.swdioDir with
    | .out => .refused .swdioDriven
    | .inp => accept clocks s go

/-- The ABORT write `swd_write(DP, ABORT_ADDR, 0x1E, ·)`, with either `more` (R192, R236). DESIGN CHOICE (log entry 8): the
address is compared in all its 8 bits. Bits 7:4 do not reach the wire (R19, R64), so a DP write of 0x1E at another address with
ABORT_ADDR's bits 3:2 sends the same cycles; the spec does not say whether it counts, and here it does not. -/
def isAbortWrite (p : Params) (port : Port) (access : Access) (addr : BitVec 8) : Bool :=
  decide (port = .dp) && decide (access = .write Config.abortClearValue) && decide (addr = p.abortAddr)

/-- A transaction other than the ABORT write is refused in Faulted (R192, R236). -/
def acceptTransaction (port : Port) (access : Access) (addr : BitVec 8) (s : State) (go : State) :
    Host.Outcome State Fault Refusal :=
  if decide (s.connState = .faulted) && !isAbortWrite s.params port access addr then .refused .abortWriteOwed
  else accept true s go

/-- The bits the target presents come first on the line. -/
def present (bits : List Bool) (s : State) : State := { s with line := bits ++ s.line }

/-- A bare transaction: run to its end, its answer given, the caller's `more` remembered (R143, R238). -/
def transaction (port : Port) (access : Access) (addr : BitVec 8) (more : Bool) (s : State) : State :=
  let out := transact (newTxn port access addr more) s
  setMoreOwed more (answer out.1 out.2)

/-- `swd_read` and `swd_write` (R144, R145), with `bits` presented by the target in the first sampled cycles. -/
def runTransaction (d : Descriptor) (bits : List Bool) (s : State) : Host.Outcome State Fault Refusal :=
  if legalAddr d.addr then
    acceptTransaction d.port d.access (BitVec.ofNat 8 d.addr) s
      (transaction d.port d.access (BitVec.ofNat 8 d.addr) d.more (present bits s))
  else invalidOperand s

/-- A pin command that shifts a constant out: one of the fixed sequences (R75). As a line sequence it may follow a
transaction with `more` true (R238; log entry 9). -/
def runSequence (bits : Word) (n : Nat) (s : State) : Host.Outcome State Fault Refusal :=
  accept true s (setMoreOwed false (answer .done (shiftOut bits n s)))

/-! ### connect and abort_and_clear -/

/-- Both steps move `conn_state` and leave `idcode` none (R182). -/
def beginConnect (s : State) : State := { s with connState := .resetting, idcode := none }

/-- The chosen reset (R182). -/
def connectReset (kind : ResetKind) (jtag : Bool) (s : State) : State :=
  match kind with
  | .v1 => lineResetV1 s
  | .v2 => lineResetV2 jtag s

/-- The IDCODE read: `swd_read(DP, IDCODE_ADDR, false)` (R183). -/
def idcodeTxn : Txn := newTxn .dp .read Config.idcodeAddr false

/-- Success or failure of the IDCODE read (R184, R185). -/
def endConnect (r : Reply) (s : State) : State :=
  match r with
  | .word v => setConn .connected { s with idcode := some v }
  | _ => setConn .disconnected s

/-- `connect` (R182): the answer and the state. Outside the IDCODE read the phase is Idle (log entry 19). -/
def connectSequence (kind : ResetKind) (jtag : Bool) (s : State) : Reply × State :=
  let out := transact idcodeTxn (setConn .idCodeRead (connectReset kind jtag (beginConnect s)))
  (out.1, endConnect out.1 out.2)

/-- `disconnect` (R187). -/
def dropConnection (s : State) : State := { s with connState := .disconnected, idcode := none }

/-- `swd_write(DP, ABORT_ADDR, 0x1E, true)` (R188). -/
def abortTxn (p : Params) : Txn := newTxn .dp (.write Config.abortClearValue) p.abortAddr true

/-- `swd_read(DP, CTRLSTAT_ADDR, false)` (R188). -/
def ctrlstatTxn (p : Params) : Txn := newTxn .dp .read p.ctrlstatAddr false

/-- Faulted is left when both transactions were acknowledged (R188, R189). -/
def recover (r : Reply) (s : State) : State :=
  match r, s.connState with
  | .word _, .faulted => setConn .connected s
  | _, _ => s

/-- `abort_and_clear` (R188, R189): the read is issued only after a write that was acknowledged OK. -/
def abortSequence (s : State) : Reply × State :=
  let w := transact (abortTxn s.params) s
  match w.1 with
  | .done =>
    let r := transact (ctrlstatTxn s.params) w.2
    (r.1, recover r.1 r.2)
  | e => (e, w.2)

/-! ### The command port and the status port -/

/-- The command to accept next, and the state with it taken from the port (R14, R55). -/
def nextCommand (s : State) : Option (Packet × State) :=
  match s.port with
  | [] => none
  | k :: rest => some (k, { s with port := rest })

/-- The caller issues a command that is accepted before all others waiting. -/
def issueFirst (k : Packet) (s : State) : State := { s with port := k :: s.port }

/-- What the caller can read between commands (R14). -/
structure Status where
  connState : ConnState
  idcode : Option Word
  ackCount : Nat
  speed : Speed
deriving DecidableEq, Repr

/-- The status port (R14, R15). -/
def statusPort (s : State) : Status := ⟨s.connState, s.idcode, s.ackCount, s.speed⟩

/-- The predicate `connected` of the source (R25). -/
def isConnected (s : State) : Bool :=
  match s.connState with
  | .connected => true
  | .faulted => true
  | _ => false

/-- The line status (R31). -/
def lineStatus (s : State) : Bool × PinDir × Bool := (s.swclk, s.swdioDir, s.swdioOut)

end Sys2Proof.Machine
end

