-- ==== Sys2Proof/Machine/Connection.lean ====
section
/-! DEFINITION. Family 4 (spec/43_connection_fsm.md): `connect`, `disconnect`, `abort_and_clear`. -/

namespace Sys2Proof.Machine

/-- `connect(reset_kind, jtag_to_dormant)` (R182 to R186): accepted in every connection state. -/
def execConnect (kind : ResetKind) (jtagToDormant : Bool) (s : State) : Host.Outcome State Fault Refusal :=
  accept true s
    (setMoreOwed false (answer (connectSequence kind jtagToDormant s).1 (connectSequence kind jtagToDormant s).2))

/-- `disconnect()` (R187): no wire activity. -/
def execDisconnect (s : State) : Host.Outcome State Fault Refusal :=
  acceptPin false s (answer .done (dropConnection s))

/-- `abort_and_clear()` (R188, R189): accepted in every connection state; it leaves no burst open (R189). -/
def execAbortAndClear (s : State) : Host.Outcome State Fault Refusal :=
  accept true s (setMoreOwed false (answer (abortSequence s).1 (abortSequence s).2))

end Sys2Proof.Machine
end

