-- ==== Sys2Proof/Machine/LineSequence.lean ====
section
/-! DEFINITION. Family 3 (spec/42_line_sequences.md): the three line sequences, and the fixed sequences they are made of
(spec/30_encoding.md R75 to R80), each shifted out by itself. -/

namespace Sys2Proof.Machine

/-- `reset_v1()` (R161). -/
def execResetV1 (s : State) : Host.Outcome State Fault Refusal :=
  accept true s (setMoreOwed false (answer .done (lineResetV1 s)))

/-- `reset_v2(false)` (R164). -/
def execResetV2 (s : State) : Host.Outcome State Fault Refusal :=
  accept true s (setMoreOwed false (answer .done (lineResetV2 false s)))

/-- `reset_v2(true)` (R164, R165). -/
def execResetV2Jtag (s : State) : Host.Outcome State Fault Refusal :=
  accept true s (setMoreOwed false (answer .done (lineResetV2 true s)))

/-- `swd_to_dormant()` (R168, R169). -/
def execSwdToDormant (s : State) : Host.Outcome State Fault Refusal :=
  accept true s (setMoreOwed false (answer .done (lineToDormant s)))

/-- JTAG to SWD selection (R76). -/
def execSeqJtagToSwd (s : State) : Host.Outcome State Fault Refusal := runSequence jtagToSwd 16 s

/-- JTAG to dormant (R77): bits 30 to 0 only. -/
def execSeqJtagToDormant (s : State) : Host.Outcome State Fault Refusal := runSequence jtagToDormant 31 s

/-- First word of the selection alert (R78). -/
def execSeqAlertWord0 (s : State) : Host.Outcome State Fault Refusal := runSequence alertWord0 32 s

/-- Second word of the selection alert (R78). -/
def execSeqAlertWord1 (s : State) : Host.Outcome State Fault Refusal := runSequence alertWord1 32 s

/-- Third word of the selection alert (R78). -/
def execSeqAlertWord2 (s : State) : Host.Outcome State Fault Refusal := runSequence alertWord2 32 s

/-- Fourth word of the selection alert (R78). -/
def execSeqAlertWord3 (s : State) : Host.Outcome State Fault Refusal := runSequence alertWord3 32 s

/-- SWD activation (R79). -/
def execSeqSwdActivation (s : State) : Host.Outcome State Fault Refusal := runSequence swdActivation 8 s

/-- SWD to dormant (R80). -/
def execSeqSwdToDormant (s : State) : Host.Outcome State Fault Refusal := runSequence swdToDormantSeq 16 s

end Sys2Proof.Machine
end

