-- ==== Sys2Proof/Machine/PinDriver.lean ====
section
/-! DEFINITION. Family 1 (spec/40_pin_driver.md): the pin commands, `set_speed`, `raw_clock`; and the wire fields TRN, DATA and
IDLE as hand-made with the pin controller. -/

namespace Sys2Proof.Machine

/-- `set_swdio_out(level)` (R91): no cycle. -/
def execSetSwdioOut (level : Nat) (s : State) : Host.Outcome State Fault Refusal :=
  match outLevelOf level with
  | some l => acceptPin false s (answer .done (drive l s))
  | none => invalidOperand s

/-- `set_swdio_in()` (R92): no cycle. -/
def execSetSwdioIn (s : State) : Host.Outcome State Fault Refusal :=
  acceptPin false s (answer .done (release s))

/-- `clock_pulse()` (R93). -/
def execClockPulse (s : State) : Host.Outcome State Fault Refusal :=
  acceptPin true s (answer .done (pulse s))

/-- `shift_out(bits, n)` (R96). -/
def execShiftOut (bits : Word) (n : Nat) (s : State) : Host.Outcome State Fault Refusal :=
  if legalShift n then acceptPin (decide (n ≠ 0)) s (answer .done (shiftOut bits n s)) else invalidOperand s

/-- `shift_in(n)` (R97): requires SWDIO released. -/
def execShiftIn (n : Nat) (s : State) : Host.Outcome State Fault Refusal :=
  if legalShift n then acceptReleased (decide (n ≠ 0)) s (answer (.word (shiftInValue n s)) (shiftIn n s))
  else invalidOperand s

/-- `clock_idle(n, level)` (R98). -/
def execClockIdle (n : Nat) (level : Nat) (s : State) : Host.Outcome State Fault Refusal :=
  match levelOf level with
  | some l => if legalCount n then acceptPin (decide (n ≠ 0)) s (answer .done (clockIdle n l s)) else invalidOperand s
  | none => invalidOperand s

/-- `turnaround_release()` (R104). -/
def execTurnaroundRelease (s : State) : Host.Outcome State Fault Refusal :=
  acceptPin true s (answer .done (turnaroundRelease s))

/-- `turnaround_retake()` (R105): requires SWDIO released. -/
def execTurnaroundRetake (s : State) : Host.Outcome State Fault Refusal :=
  acceptReleased true s (answer .done (turnaroundRetake s))

/-- `set_speed(speed)` (R106): nothing but `speed` changes. -/
def execSetSpeed (code : Nat) (s : State) : Host.Outcome State Fault Refusal :=
  match speedOf code with
  | some sp => acceptPin false s (answer .done { s with speed := sp })
  | none => invalidOperand s

/-- `raw_clock(level, post, count)` (R107): `clock_idle(count, level)`, then the line state `post` (decision D21). -/
def execRawClock (level : Nat) (post : Nat) (count : Nat) (s : State) : Host.Outcome State Fault Refusal :=
  match levelOf level, levelOf post with
  | some l, some q =>
    if legalCount count then acceptPin (decide (count ≠ 0)) s (answer .done (setLevel q (clockIdle count l s)))
    else invalidOperand s
  | _, _ => invalidOperand s

/-- The field TRN (R67): the turnaround helper in the direction given (R101, R104, R105). -/
def execTrn (k : TrnKind) (s : State) : Host.Outcome State Fault Refusal :=
  match k with
  | .release => acceptPin true s (answer .done (turnaroundRelease s))
  | .retake => acceptReleased true s (answer .done (turnaroundRetake s))

/-- The word of a DATA-IN field, or the parity error (R73). -/
def dataFieldReply (s : State) : Reply :=
  if parityHolds (dataInWord s) (dataInParity s) then .word (dataInWord s) else .error .readParityError

/-- The field DATA (R72): DATA-OUT is 33 host-driven cycles (R66), DATA-IN 33 sampled cycles in which the target presents
the field's bits, whose parity is verified (R73). -/
def execData (f : DataField) (s : State) : Host.Outcome State Fault Refusal :=
  match f with
  | .dataOut data => acceptPin true s (answer .done (shiftOutData data s))
  | .dataIn data p =>
    acceptReleased true s
      (answer (dataFieldReply (present (dataBits data p) s)) (shiftIn 1 (shiftIn 32 (present (dataBits data p) s))))

/-- The field IDLE (R74, R140): `clock_idle(IDLE_CYCLES, Low)`. -/
def execIdle (s : State) : Host.Outcome State Fault Refusal :=
  acceptPin true s (answer .done (clockIdle s.params.idleCycles .low s))

end Sys2Proof.Machine
end

