-- ==== Sys2Proof/Machine/Transaction.lean ====
section
/-! DEFINITION. Family 2 (spec/41_link_transaction.md): `swd_read`, `swd_write`, the sixteen operation bytes, and the
acknowledge fields. -/

namespace Sys2Proof.Machine

/-- `swd_read(port, addr, more)` (R144). -/
def execSwdRead (port : Port) (addr : Nat) (more : Bool) (s : State) : Host.Outcome State Fault Refusal :=
  runTransaction ⟨port, .read, addr, more⟩ [] s

/-- `swd_write(port, addr, data, more)` (R145). -/
def execSwdWrite (port : Port) (addr : Nat) (data : Word) (more : Bool) (s : State) : Host.Outcome State Fault Refusal :=
  runTransaction ⟨port, .write data, addr, more⟩ [] s

/-! ### The operation bytes of R63: any address with these bits 3:2 -/

/-- `swd_write` of DP with addr[3:0] = 0x0 (R63, R145). -/
def execSwdWriteDp0 (bank : BitVec 4) (data : Word) (more : Bool) (s : State) : Host.Outcome State Fault Refusal :=
  runTransaction ⟨.dp, .write data, addrOf bank 0x0, more⟩ [] s

/-- `swd_write` of DP with addr[3:0] = 0x4 (R63, R145). -/
def execSwdWriteDp4 (bank : BitVec 4) (data : Word) (more : Bool) (s : State) : Host.Outcome State Fault Refusal :=
  runTransaction ⟨.dp, .write data, addrOf bank 0x4, more⟩ [] s

/-- `swd_write` of DP with addr[3:0] = 0x8 (R63, R145). -/
def execSwdWriteDp8 (bank : BitVec 4) (data : Word) (more : Bool) (s : State) : Host.Outcome State Fault Refusal :=
  runTransaction ⟨.dp, .write data, addrOf bank 0x8, more⟩ [] s

/-- `swd_write` of DP with addr[3:0] = 0xC (R63, R145). -/
def execSwdWriteDpC (bank : BitVec 4) (data : Word) (more : Bool) (s : State) : Host.Outcome State Fault Refusal :=
  runTransaction ⟨.dp, .write data, addrOf bank 0xC, more⟩ [] s

/-- `swd_read` of DP with addr[3:0] = 0x0 (R63, R144). -/
def execSwdReadDp0 (bank : BitVec 4) (more : Bool) (s : State) : Host.Outcome State Fault Refusal :=
  runTransaction ⟨.dp, .read, addrOf bank 0x0, more⟩ [] s

/-- `swd_read` of DP with addr[3:0] = 0x4 (R63, R144). -/
def execSwdReadDp4 (bank : BitVec 4) (more : Bool) (s : State) : Host.Outcome State Fault Refusal :=
  runTransaction ⟨.dp, .read, addrOf bank 0x4, more⟩ [] s

/-- `swd_read` of DP with addr[3:0] = 0x8 (R63, R144). -/
def execSwdReadDp8 (bank : BitVec 4) (more : Bool) (s : State) : Host.Outcome State Fault Refusal :=
  runTransaction ⟨.dp, .read, addrOf bank 0x8, more⟩ [] s

/-- `swd_read` of DP with addr[3:0] = 0xC (R63, R144). -/
def execSwdReadDpC (bank : BitVec 4) (more : Bool) (s : State) : Host.Outcome State Fault Refusal :=
  runTransaction ⟨.dp, .read, addrOf bank 0xC, more⟩ [] s

/-- `swd_write` of AP with addr[3:0] = 0x0 (R63, R145). -/
def execSwdWriteAp0 (bank : BitVec 4) (data : Word) (more : Bool) (s : State) : Host.Outcome State Fault Refusal :=
  runTransaction ⟨.ap, .write data, addrOf bank 0x0, more⟩ [] s

/-- `swd_write` of AP with addr[3:0] = 0x4 (R63, R145). -/
def execSwdWriteAp4 (bank : BitVec 4) (data : Word) (more : Bool) (s : State) : Host.Outcome State Fault Refusal :=
  runTransaction ⟨.ap, .write data, addrOf bank 0x4, more⟩ [] s

/-- `swd_write` of AP with addr[3:0] = 0x8 (R63, R145). -/
def execSwdWriteAp8 (bank : BitVec 4) (data : Word) (more : Bool) (s : State) : Host.Outcome State Fault Refusal :=
  runTransaction ⟨.ap, .write data, addrOf bank 0x8, more⟩ [] s

/-- `swd_write` of AP with addr[3:0] = 0xC (R63, R145). -/
def execSwdWriteApC (bank : BitVec 4) (data : Word) (more : Bool) (s : State) : Host.Outcome State Fault Refusal :=
  runTransaction ⟨.ap, .write data, addrOf bank 0xC, more⟩ [] s

/-- `swd_read` of AP with addr[3:0] = 0x0 (R63, R144). -/
def execSwdReadAp0 (bank : BitVec 4) (more : Bool) (s : State) : Host.Outcome State Fault Refusal :=
  runTransaction ⟨.ap, .read, addrOf bank 0x0, more⟩ [] s

/-- `swd_read` of AP with addr[3:0] = 0x4 (R63, R144). -/
def execSwdReadAp4 (bank : BitVec 4) (more : Bool) (s : State) : Host.Outcome State Fault Refusal :=
  runTransaction ⟨.ap, .read, addrOf bank 0x4, more⟩ [] s

/-- `swd_read` of AP with addr[3:0] = 0x8 (R63, R144). -/
def execSwdReadAp8 (bank : BitVec 4) (more : Bool) (s : State) : Host.Outcome State Fault Refusal :=
  runTransaction ⟨.ap, .read, addrOf bank 0x8, more⟩ [] s

/-- `swd_read` of AP with addr[3:0] = 0xC (R63, R144). -/
def execSwdReadApC (bank : BitVec 4) (more : Bool) (s : State) : Host.Outcome State Fault Refusal :=
  runTransaction ⟨.ap, .read, addrOf bank 0xC, more⟩ [] s

/-! ### The acknowledge fields: the transaction they answer, with these bits presented in its first ACK phase -/

/-- The acknowledge OK (R70, R128, R129); the code is a parameter (decision D1). -/
def execAckOk (d : Descriptor) (s : State) : Host.Outcome State Fault Refusal :=
  runTransaction d (lsbFirst s.params.ackOk 3) s

/-- The acknowledge WAIT (R70, R130, R131, R137); the code is a parameter (decision D1). -/
def execAckWait (d : Descriptor) (s : State) : Host.Outcome State Fault Refusal :=
  runTransaction d (lsbFirst s.params.ackWait 3) s

/-- The acknowledge FAULT (R70, R130, R131, R138); the code is a parameter (decision D1). -/
def execAckFault (d : Descriptor) (s : State) : Host.Outcome State Fault Refusal :=
  runTransaction d (lsbFirst s.params.ackFault 3) s

/-- The raw acknowledge 0: Protocol under the default codes (R71, R132, R139). -/
def execAckProtocol0 (d : Descriptor) (s : State) : Host.Outcome State Fault Refusal :=
  runTransaction d [false, false, false] s

/-- The raw acknowledge 3: Protocol under the default codes (R71, R132, R139). -/
def execAckProtocol3 (d : Descriptor) (s : State) : Host.Outcome State Fault Refusal :=
  runTransaction d [true, true, false] s

/-- The raw acknowledge 5: Protocol under the default codes (R71, R132, R139). -/
def execAckProtocol5 (d : Descriptor) (s : State) : Host.Outcome State Fault Refusal :=
  runTransaction d [true, false, true] s

/-- The raw acknowledge 6: Protocol under the default codes (R71, R132, R139). -/
def execAckProtocol6 (d : Descriptor) (s : State) : Host.Outcome State Fault Refusal :=
  runTransaction d [false, true, true] s

/-- The raw acknowledge 7: Protocol under the default codes (R71, R132, R139). -/
def execAckProtocol7 (d : Descriptor) (s : State) : Host.Outcome State Fault Refusal :=
  runTransaction d [true, true, true] s

end Sys2Proof.Machine
end

