-- ==== Sys2Proof/Machine/Dispatch.lean ====
section
/-! DEFINITION. The meaning of every instruction, one arm per constructor. -/

namespace Sys2Proof.Machine

def exec (i : Instr) (s : State) : Host.Outcome State Fault Refusal :=
  match i with
  | .swdRead port addr more => Sys2Proof.Machine.execSwdRead port addr more s
  | .swdWrite port addr data more => Sys2Proof.Machine.execSwdWrite port addr data more s
  | .swdWriteDp0 bank data more => Sys2Proof.Machine.execSwdWriteDp0 bank data more s
  | .swdWriteDp4 bank data more => Sys2Proof.Machine.execSwdWriteDp4 bank data more s
  | .swdWriteDp8 bank data more => Sys2Proof.Machine.execSwdWriteDp8 bank data more s
  | .swdWriteDpC bank data more => Sys2Proof.Machine.execSwdWriteDpC bank data more s
  | .swdReadDp0 bank more => Sys2Proof.Machine.execSwdReadDp0 bank more s
  | .swdReadDp4 bank more => Sys2Proof.Machine.execSwdReadDp4 bank more s
  | .swdReadDp8 bank more => Sys2Proof.Machine.execSwdReadDp8 bank more s
  | .swdReadDpC bank more => Sys2Proof.Machine.execSwdReadDpC bank more s
  | .swdWriteAp0 bank data more => Sys2Proof.Machine.execSwdWriteAp0 bank data more s
  | .swdWriteAp4 bank data more => Sys2Proof.Machine.execSwdWriteAp4 bank data more s
  | .swdWriteAp8 bank data more => Sys2Proof.Machine.execSwdWriteAp8 bank data more s
  | .swdWriteApC bank data more => Sys2Proof.Machine.execSwdWriteApC bank data more s
  | .swdReadAp0 bank more => Sys2Proof.Machine.execSwdReadAp0 bank more s
  | .swdReadAp4 bank more => Sys2Proof.Machine.execSwdReadAp4 bank more s
  | .swdReadAp8 bank more => Sys2Proof.Machine.execSwdReadAp8 bank more s
  | .swdReadApC bank more => Sys2Proof.Machine.execSwdReadApC bank more s
  | .ackOk d => Sys2Proof.Machine.execAckOk d s
  | .ackWait d => Sys2Proof.Machine.execAckWait d s
  | .ackFault d => Sys2Proof.Machine.execAckFault d s
  | .ackProtocol0 d => Sys2Proof.Machine.execAckProtocol0 d s
  | .ackProtocol3 d => Sys2Proof.Machine.execAckProtocol3 d s
  | .ackProtocol5 d => Sys2Proof.Machine.execAckProtocol5 d s
  | .ackProtocol6 d => Sys2Proof.Machine.execAckProtocol6 d s
  | .ackProtocol7 d => Sys2Proof.Machine.execAckProtocol7 d s
  | .data f => Sys2Proof.Machine.execData f s
  | .trn k => Sys2Proof.Machine.execTrn k s
  | .idle => Sys2Proof.Machine.execIdle s
  | .resetV1 => Sys2Proof.Machine.execResetV1 s
  | .resetV2 => Sys2Proof.Machine.execResetV2 s
  | .resetV2Jtag => Sys2Proof.Machine.execResetV2Jtag s
  | .swdToDormant => Sys2Proof.Machine.execSwdToDormant s
  | .seqJtagToSwd => Sys2Proof.Machine.execSeqJtagToSwd s
  | .seqJtagToDormant => Sys2Proof.Machine.execSeqJtagToDormant s
  | .seqAlertWord0 => Sys2Proof.Machine.execSeqAlertWord0 s
  | .seqAlertWord1 => Sys2Proof.Machine.execSeqAlertWord1 s
  | .seqAlertWord2 => Sys2Proof.Machine.execSeqAlertWord2 s
  | .seqAlertWord3 => Sys2Proof.Machine.execSeqAlertWord3 s
  | .seqSwdActivation => Sys2Proof.Machine.execSeqSwdActivation s
  | .seqSwdToDormant => Sys2Proof.Machine.execSeqSwdToDormant s
  | .setSwdioOut level => Sys2Proof.Machine.execSetSwdioOut level s
  | .setSwdioIn => Sys2Proof.Machine.execSetSwdioIn s
  | .clockPulse => Sys2Proof.Machine.execClockPulse s
  | .shiftOut bits n => Sys2Proof.Machine.execShiftOut bits n s
  | .shiftIn n => Sys2Proof.Machine.execShiftIn n s
  | .clockIdle n level => Sys2Proof.Machine.execClockIdle n level s
  | .turnaroundRelease => Sys2Proof.Machine.execTurnaroundRelease s
  | .turnaroundRetake => Sys2Proof.Machine.execTurnaroundRetake s
  | .setSpeed code => Sys2Proof.Machine.execSetSpeed code s
  | .rawClock level post count => Sys2Proof.Machine.execRawClock level post count s
  | .connect kind jtagToDormant => Sys2Proof.Machine.execConnect kind jtagToDormant s
  | .disconnect => Sys2Proof.Machine.execDisconnect s
  | .abortAndClear => Sys2Proof.Machine.execAbortAndClear s

end Sys2Proof.Machine
end

