-- ==== Sys2Proof/Machine/Step.lean ====
section
/-! DEFINITION. One step: the next command at the port is decoded and executed to completion (spec/20_memory.md R55). -/

namespace Sys2Proof.Machine

/-- Nothing happens except in response to a command (R208); a command is one step (decision D28). With an empty port the step
changes nothing (log entry 13). DESIGN CHOICE (log entry 20): so also while a successor is owed to a transaction with `more`
true (R238, U2): idling is not refused, and the successor stays owed. -/
def step (s : State) : Host.Outcome State Fault Refusal :=
  match nextCommand s with
  | none => .next s
  | some (k, s') =>
    match decode k with
    | .ok i => exec i s'
    | .error e => .refused (.undecodable e)

/-- The caller issues the command of a table word, accepted before all others (log entry 6). -/
def State.withFetchWord (s : State) (nbits w : Nat) : State := issueFirst (tablePacket nbits w) s

end Sys2Proof.Machine
end

