-- ==== Sys2Proof/Safety.lean ====
section
/-! DEFINITION. The terms in which claims are made: when a command can be accepted, the wire traces of the packet shapes, the
states a run can be in. -/

namespace Sys2Proof.Machine

/-! ### Conditions on a state -/

/-- No command is in progress and SWCLK is low (R14, R93). -/
abbrev State.Ready (s : State) : Prop := s.phase = .idle ∧ s.swclk = false

/-- Ready, and no successor is owed to a transaction with `more` true (R238; the field `moreOwed` is log entry 4). -/
abbrev State.Quiet (s : State) : Prop := s.Ready ∧ s.moreOwed = false

/-- The rest invariant of R32 on the line status. -/
abbrev State.AtRest (s : State) : Prop := lineStatus s = (false, .out, false)

/-- "The session is healthy" (R221). -/
abbrev State.Healthy (s : State) : Prop := s.connState = .connected

/-- A transaction may be issued as a bare command: not in Faulted (R192), unless it is the ABORT write of R236 (log entry 8 for
its address). -/
abbrev State.Admits (s : State) (d : Descriptor) : Prop :=
  s.connState ≠ .faulted ∨ (d.port = .dp ∧ d.access = .write 0x1E ∧ d.addr = s.params.abortAddr.toNat)

/-- What holds between commands: SWCLK low (R11), phase Idle (R22), no transaction register holds a value (R21), no
transient connection state (R193), `idcode` none exactly in Disconnected (R25, decision D15), the parameters within their
constraints (R6), and only released cycles are sampled (R42). -/
abbrev State.Inv (s : State) : Prop :=
  s.swclk = false ∧ s.phase = .idle ∧ s.txn = none ∧
  s.connState ≠ .resetting ∧ s.connState ≠ .idCodeRead ∧
  (s.idcode = none ↔ s.connState = .disconnected) ∧
  s.params.Constrained ∧
  ∀ c ∈ s.trace, c.sample = none ∨ c.hold = .z

/-! ### Cycles (R42) -/

/-- A cycle in which the host drives the bit. -/
def hostCycle (b : Bool) : Cycle := ⟨if b then .h else .l, none⟩

/-- A released cycle that is sampled. -/
def sampledCycle (b : Bool) : Cycle := ⟨.z, some b⟩

/-- A released cycle that is not sampled: a turnaround (R67). -/
def releasedCycle : Cycle := ⟨.z, none⟩

/-- The cycle of format LEVEL (R74). -/
def levelCycle : Level → Cycle
  | .low => hostCycle false
  | .high => hostCycle true
  | .input => releasedCycle

/-- Format IDLE (R74). -/
def idleRun (n : Nat) : List Cycle := List.replicate n (hostCycle false)

/-- `n` cycles with SWDIO driven high. -/
def highRun (n : Nat) : List Cycle := List.replicate n (hostCycle true)

/-- The first `n` bits of a word driven by the host, LSB first. -/
def shiftRun (v : Word) (n : Nat) : List Cycle := (lsbFirst v n).map hostCycle

/-! ### Packet shapes (R60) -/

/-- Format OP: the operation byte. -/
def requestCycles (d : Descriptor) : List Cycle :=
  (lsbFirst (opByte d.port d.access (BitVec.ofNat 8 d.addr)) 8).map hostCycle

/-- OP TRN ACK. -/
def requestAndAck (d : Descriptor) (ack : BitVec 3) : List Cycle :=
  requestCycles d ++ releasedCycle :: (lsbFirst ack 3).map sampledCycle

/-- OP TRN ACK TRN: the attempt without a data phase. -/
def shortAttempt (d : Descriptor) (ack : BitVec 3) : List Cycle := requestAndAck d ack ++ [releasedCycle]

/-- OP TRN ACK DATA-IN TRN. -/
def readAttempt (d : Descriptor) (ack : BitVec 3) (v : Word) (p : Bool) : List Cycle :=
  requestAndAck d ack ++ (dataBits v p).map sampledCycle ++ [releasedCycle]

/-- OP TRN ACK TRN DATA-OUT. -/
def writeAttempt (d : Descriptor) (ack : BitVec 3) (v : Word) : List Cycle :=
  requestAndAck d ack ++ releasedCycle :: (dataBits v (par32 v)).map hostCycle

/-- `k` attempts that are answered WAIT, with nothing between them (R137). -/
def waitAttempts (p : Params) (d : Descriptor) (k : Nat) : List Cycle :=
  (List.replicate k (shortAttempt d p.ackWait)).flatten

/-- The bits with which a target answers WAIT `k` times. -/
def waitBits (p : Params) (k : Nat) : List Bool := (List.replicate k (lsbFirst p.ackWait 3)).flatten

/-- The trailing idle of a transaction (R140, R142). -/
def trailRun (p : Params) (more : Bool) : List Cycle := if more then [] else idleRun p.idleCycles

/-- The trailing idle of a write that sent its data (R140, R141). -/
def writeTrailRun (p : Params) (more : Bool) : List Cycle :=
  if more then idleRun p.writeTrailCycles else idleRun p.idleCycles

/-- Connected becomes Faulted on FAULT and Protocol (R190). -/
def faultedFrom : ConnState → ConnState
  | .connected => .faulted
  | c => c

/-! ### Which instruction is which transaction -/

/-- The transaction that an instruction issues, and the bits with which the target answers its first ACK phase where the
instruction is an acknowledge field (R63, R70, R71). -/
def transactionOf (p : Params) : Instr → Option (Descriptor × List Bool)
  | .swdRead port addr more => some (⟨port, .read, addr, more⟩, [])
  | .swdWrite port addr data more => some (⟨port, .write data, addr, more⟩, [])
  | .swdWriteDp0 bank data more => some (⟨.dp, .write data, 16 * bank.toNat + 0x0, more⟩, [])
  | .swdWriteDp4 bank data more => some (⟨.dp, .write data, 16 * bank.toNat + 0x4, more⟩, [])
  | .swdWriteDp8 bank data more => some (⟨.dp, .write data, 16 * bank.toNat + 0x8, more⟩, [])
  | .swdWriteDpC bank data more => some (⟨.dp, .write data, 16 * bank.toNat + 0xC, more⟩, [])
  | .swdReadDp0 bank more => some (⟨.dp, .read, 16 * bank.toNat + 0x0, more⟩, [])
  | .swdReadDp4 bank more => some (⟨.dp, .read, 16 * bank.toNat + 0x4, more⟩, [])
  | .swdReadDp8 bank more => some (⟨.dp, .read, 16 * bank.toNat + 0x8, more⟩, [])
  | .swdReadDpC bank more => some (⟨.dp, .read, 16 * bank.toNat + 0xC, more⟩, [])
  | .swdWriteAp0 bank data more => some (⟨.ap, .write data, 16 * bank.toNat + 0x0, more⟩, [])
  | .swdWriteAp4 bank data more => some (⟨.ap, .write data, 16 * bank.toNat + 0x4, more⟩, [])
  | .swdWriteAp8 bank data more => some (⟨.ap, .write data, 16 * bank.toNat + 0x8, more⟩, [])
  | .swdWriteApC bank data more => some (⟨.ap, .write data, 16 * bank.toNat + 0xC, more⟩, [])
  | .swdReadAp0 bank more => some (⟨.ap, .read, 16 * bank.toNat + 0x0, more⟩, [])
  | .swdReadAp4 bank more => some (⟨.ap, .read, 16 * bank.toNat + 0x4, more⟩, [])
  | .swdReadAp8 bank more => some (⟨.ap, .read, 16 * bank.toNat + 0x8, more⟩, [])
  | .swdReadApC bank more => some (⟨.ap, .read, 16 * bank.toNat + 0xC, more⟩, [])
  | .ackOk d => some (d, lsbFirst p.ackOk 3)
  | .ackWait d => some (d, lsbFirst p.ackWait 3)
  | .ackFault d => some (d, lsbFirst p.ackFault 3)
  | .ackProtocol0 d => some (d, lsbFirst (0 : BitVec 3) 3)
  | .ackProtocol3 d => some (d, lsbFirst (3 : BitVec 3) 3)
  | .ackProtocol5 d => some (d, lsbFirst (5 : BitVec 3) 3)
  | .ackProtocol6 d => some (d, lsbFirst (6 : BitVec 3) 3)
  | .ackProtocol7 d => some (d, lsbFirst (7 : BitVec 3) 3)
  | _ => none

/-- The constant that a fixed-sequence row shifts out, and its length (R75). -/
def sequenceOf : Instr → Option (Word × Nat)
  | .seqJtagToSwd => some (0xE79E, 16)
  | .seqJtagToDormant => some (0x33BBBBBA, 31)
  | .seqAlertWord0 => some (0x6209F392, 32)
  | .seqAlertWord1 => some (0x86852D95, 32)
  | .seqAlertWord2 => some (0xE3DDAFE9, 32)
  | .seqAlertWord3 => some (0x19BC0EA2, 32)
  | .seqSwdActivation => some (0x1A, 8)
  | .seqSwdToDormant => some (0xE3BC, 16)
  | _ => none

/-- The pin commands and fields of family 1 (R90). -/
def isPinCommand : Instr → Bool
  | .setSwdioOut _ => true
  | .setSwdioIn => true
  | .clockPulse => true
  | .shiftOut _ _ => true
  | .shiftIn _ => true
  | .clockIdle _ _ => true
  | .turnaroundRelease => true
  | .turnaroundRetake => true
  | .setSpeed _ => true
  | .rawClock _ _ _ => true
  | .data _ => true
  | .trn _ => true
  | .idle => true
  | _ => false

/-- The line sequences and the constants they are made of (R160, R75). -/
def isLineSequence : Instr → Bool
  | .resetV1 => true
  | .resetV2 => true
  | .resetV2Jtag => true
  | .swdToDormant => true
  | i => (sequenceOf i).isSome

/-- An outcome with its next state changed. -/
def mapNext (f : State → State) : Host.Outcome State Fault Refusal → Host.Outcome State Fault Refusal
  | .next s => .next (f s)
  | .fault r => .fault r
  | .refused r => .refused r

end Sys2Proof.Machine
end

