-- ==== Sys2Proof/Certificates/Slice0/Obligations.lean ====
section
/-! DEFINITION. The statements about the model, from the numbered rules of spec/. Where a clause rests on a decision of the spec
or of the model, the docstring names it. -/

open Sys2Proof Sys2Proof.Machine

/-! ### Encoding -/

/-- R61, R62, R121, R122: the operation byte bit by bit, for every port, direction and address. -/
def Obligations.OperationByteBits : Prop :=
  ∀ (port : Port) (access : Access) (addr : BitVec 8),
    let b := opByte port access addr
    b.getLsbD 0 = true ∧ b.getLsbD 1 = decide (port = .ap) ∧ b.getLsbD 2 = decide (access = .read) ∧
    b.getLsbD 3 = addr.getLsbD 2 ∧ b.getLsbD 4 = addr.getLsbD 3 ∧
    b.getLsbD 5 = par4 (b.getLsbD 1) (b.getLsbD 2) (b.getLsbD 3) (b.getLsbD 4) ∧
    b.getLsbD 6 = false ∧ b.getLsbD 7 = true ∧
    ((b.getLsbD 1).toNat + (b.getLsbD 2).toNat + (b.getLsbD 3).toNat + (b.getLsbD 4).toNat + (b.getLsbD 5).toNat) % 2 = 0 ∧
    (∀ x y z w : Bool, par4 x y z w = true ↔ (x.toNat + y.toNat + z.toNat + w.toNat) % 2 = 1)

/-- The table of spec/30_encoding.md section 1 (its R63, which the spec derives): the sixteen request bytes. -/
def Obligations.OperationByteTable : Prop :=
  (∀ d : Word,
    [opByte .dp (.write d) 0x0, opByte .dp (.write d) 0x4, opByte .dp (.write d) 0x8, opByte .dp (.write d) 0xC,
      opByte .ap (.write d) 0x0, opByte .ap (.write d) 0x4, opByte .ap (.write d) 0x8, opByte .ap (.write d) 0xC] =
    [0x81, 0xA9, 0xB1, 0x99, 0xA3, 0x8B, 0x93, 0xBB]) ∧
  [opByte .dp .read 0x0, opByte .dp .read 0x4, opByte .dp .read 0x8, opByte .dp .read 0xC,
    opByte .ap .read 0x0, opByte .ap .read 0x4, opByte .ap .read 0x8, opByte .ap .read 0xC] =
  [0xA5, 0x8D, 0x95, 0xBD, 0x87, 0xAF, 0xB7, 0x9F]

/-- Every request byte is one of the sixteen of that table, and of the address only bits 3 and 2 reach the wire: two addresses
that have them equal give the same byte, with any data (spec/30_encoding.md sections 1 and 2; decision D13). -/
def Obligations.RequestBytesAreSixteen : Prop :=
  (∀ (port : Port) (access : Access) (addr : BitVec 8),
    opByte port access addr ∈
      ([0x81, 0xA9, 0xB1, 0x99, 0xA5, 0x8D, 0x95, 0xBD, 0xA3, 0x8B, 0x93, 0xBB, 0x87, 0xAF, 0xB7, 0x9F] : List (BitVec 8))) ∧
  (∀ (port : Port) (a b : BitVec 8), a.getLsbD 2 = b.getLsbD 2 → a.getLsbD 3 = b.getLsbD 3 →
    opByte port .read a = opByte port .read b ∧
    ∀ v w : Word, opByte port (.write v) a = opByte port (.write w) b)

/-- Even parity (spec/30_encoding.md section 3): the 33 bits of a data phase together hold an even number of ones, and the read
check accepts exactly that parity bit. -/
def Obligations.DataPhaseParityIsEven : Prop :=
  ∀ (v : Word) (p : Bool),
    (dataBits v (par32 v)).count true % 2 = 0 ∧ (parityHolds v p = true ↔ (dataBits v p).count true % 2 = 0)

/-- R127: the decode is total, and each of the three outcomes belongs to exactly its code. The codes are the parameters of R70
(decision D1); that they are distinct is the constraint of R6. -/
def Obligations.AcknowledgeDecode : Prop :=
  ∀ (p : Params) (a : BitVec 3), p.Constrained →
    (decodeAck p a = .ok ↔ a = p.ackOk) ∧ (decodeAck p a = .wait ↔ a = p.ackWait) ∧
    (decodeAck p a = .fault ↔ a = p.ackFault) ∧
    (decodeAck p a = .protocol ↔ a ≠ p.ackOk ∧ a ≠ p.ackWait ∧ a ≠ p.ackFault)

/-- The packet of every instruction decodes to it, with every operand at every value (the packet form is the model's, log
entry 6; the wire bits are those of R61, R66, R70, R71, R76 to R80, R161, R164, R168). -/
def Obligations.DecodeOfEncode : Prop := ∀ i : Instr, decode (encode i) = .ok i

/-- Words written out from the spec's encodings decode to what they stand for: an operation byte of R63 for a read and a write,
an acknowledge of R70, a data phase of R72, a fixed sequence of R76. Three bytes that are none of R63's sixteen are refused:
0x85 (wrong parity, stop 0), 0xC5 (wrong parity and stop 1) and 0xE5 (right parity, stop 1 alone). R85 says only that the block
never produces such a byte; that the decoder refuses it, 0x85 among them although the table gives it to the row `swd_read`, is
the model's (log entry 7; log entry 13 for the refusal by name), and so are the packets and their operand words (log entry 6). -/
def Obligations.SpecWordsDecode : Prop :=
  decode (.wire 8 0xA5 [0, 0]) = .ok (.swdReadDp0 0 false) ∧
  decode (.wire 8 0xBB [15, 0xDEADBEEF, 1]) = .ok (.swdWriteApC 15 0xDEADBEEF true) ∧
  decode (.wire 3 4 [1, 1, 0xC, 0, 0]) = .ok (.ackFault ⟨.ap, .read, 0xC, false⟩) ∧
  decode (.wire 33 0x112345678 [0]) = .ok (.data (.dataOut 0x12345678)) ∧
  decode (.wire 16 0xE79E []) = .ok .seqJtagToSwd ∧
  decode (.wire 8 0x85 [0, 0]) = .error .notAnOperationByte ∧
  decode (.wire 8 0xC5 [0, 0]) = .error .notAnOperationByte ∧
  decode (.wire 8 0xE5 [0, 0]) = .error .notAnOperationByte

/-- The wire strings of all five fixed sequences, LSB first, as the spec prints them (its R76 to R80; it derives them from the
numerals, R75; decision D12 for the alert's words). Bit 31 of the JTAG to dormant constant is 0. -/
def Obligations.FixedSequenceWireStrings : Prop :=
  (lsbFirst jtagToSwd 16).map Bool.toNat = [0,1,1,1,1,0,0,1,1,1,1,0,0,1,1,1] ∧
  (lsbFirst jtagToDormant 31).map Bool.toNat =
    [0,1,0,1,1,1,0,1,1,1,0,1,1,1,0,1,1,1,0,1,1,1,0,1,1,1,0,0,1,1,0] ∧
  jtagToDormant.getLsbD 31 = false ∧
  (lsbFirst alertWord0 32).map Bool.toNat =
    [0,1,0,0,1,0,0,1,1,1,0,0,1,1,1,1,1,0,0,1,0,0,0,0,0,1,0,0,0,1,1,0] ∧
  (lsbFirst alertWord1 32).map Bool.toNat =
    [1,0,1,0,1,0,0,1,1,0,1,1,0,1,0,0,1,0,1,0,0,0,0,1,0,1,1,0,0,0,0,1] ∧
  (lsbFirst alertWord2 32).map Bool.toNat =
    [1,0,0,1,0,1,1,1,1,1,1,1,0,1,0,1,1,0,1,1,1,0,1,1,1,1,0,0,0,1,1,1] ∧
  (lsbFirst alertWord3 32).map Bool.toNat =
    [0,1,0,0,0,1,0,1,0,1,1,1,0,0,0,0,0,0,1,1,1,1,0,1,1,0,0,1,1,0,0,0] ∧
  (lsbFirst swdActivation 8).map Bool.toNat = [0,1,0,1,1,0,0,0] ∧
  (lsbFirst swdToDormantSeq 16).map Bool.toNat = [0,0,1,1,1,1,0,1,1,1,0,0,0,1,1,1]

/-! ### The pin controller -/

/-- R91: `set_swdio_out` drives SWDIO at the level and emits no cycle. -/
def Obligations.SetSwdioOutDrives : Prop :=
  ∀ (s : State) (b : Bool), s.phase = .idle → s.moreOwed = false →
    exec (.setSwdioOut (if b then 1 else 0)) s =
      .next { s with swdioDir := .out, swdioOut := b, reply := some .done }

/-- R92: `set_swdio_in` releases SWDIO, keeps `swdio_out` and emits no cycle. -/
def Obligations.SetSwdioInReleases : Prop :=
  ∀ s : State, s.phase = .idle → s.moreOwed = false →
    exec .setSwdioIn s = .next { s with swdioDir := .inp, reply := some .done }

/-- One pulse is one unsampled cycle with the host's hold, and leaves SWCLK low (spec/40_pin_driver.md section 1; decision D2
for the resting level). -/
def Obligations.ClockPulseIsOneCycle : Prop :=
  ∀ s : State, s.Quiet →
    exec .clockPulse s = .next { s with
      trace := s.trace ++ [if s.swdioDir = .inp then releasedCycle else hostCycle s.swdioOut], reply := some .done }

/-- One host-driven bit is exactly `set_swdio_out(b)` and then `clock_pulse()`, the level set while SWCLK is low, and SWDIO keeps
it (spec/40_pin_driver.md section 2). -/
def Obligations.WriteBitIsDriveThenPulse : Prop :=
  ∀ (s : State) (b : Bool), s.Quiet →
    ∃ m t, exec (.setSwdioOut (if b then 1 else 0)) s = .next m ∧ m.swclk = false ∧ exec .clockPulse m = .next t ∧
      exec (.shiftOut (if b then 1 else 0) 1) s = .next t ∧
      t.trace = s.trace ++ [hostCycle b] ∧ t.swdioDir = .out ∧ t.swdioOut = b ∧ t.swclk = false

/-- `shift_out` drives bits[0] to bits[n-1] in that order and leaves SWDIO at the last; n = 0 does nothing at all
(spec/40_pin_driver.md section 3; decision D20 for the range). -/
def Obligations.ShiftOutIsLsbFirst : Prop :=
  ∀ (s : State) (v : Word) (n : Nat), s.Quiet → n ≤ 32 →
    exec (.shiftOut v n) s = .next (
      if n = 0 then { s with reply := some .done }
      else { s with
        trace := s.trace ++ (List.range n).map (fun i => hostCycle (v.getLsbD i)),
        swdioDir := .out, swdioOut := v.getLsbD (n - 1), reply := some .done })

/-- `shift_in` of bits the target presents: one sampled cycle each, the first in bit 0 of the result, the rest 0
(spec/40_pin_driver.md section 3; decision D20 for the range).
`line` and `draws` are the model's (log entry 3). -/
def Obligations.ShiftInAssemblesPresentedBits : Prop :=
  ∀ (s : State) (bs rest : List Bool), s.Quiet → s.swdioDir = .inp → bs.length ≤ 32 → s.line = bs ++ rest →
    ∃ v : Word, (∀ i, v.getLsbD i = bs.getD i false) ∧
      exec (.shiftIn bs.length) s = .next { s with
        trace := s.trace ++ bs.map sampledCycle, line := rest, draws := s.draws + bs.length,
        reply := some (.word v) }

/-- `shift_in` for every sequence of draws: whatever is sampled, the trace and the result hold the same bits
(spec/20_memory.md section 2; the free value is that of log entry 3). -/
def Obligations.ShiftInHoldsForEveryDraw : Prop :=
  ∀ (s : State) (n : Nat), s.Quiet → s.swdioDir = .inp → n ≤ 32 →
    ∃ bs : List Bool, bs.length = n ∧
      exec (.shiftIn n) s = .next { s with
        trace := s.trace ++ bs.map sampledCycle, line := s.line.drop n, draws := s.draws + n,
        reply := some (.word (ofBits 32 bs)) }

/-- Commands that need SWDIO released are refused while the host drives it (spec/40_pin_driver.md section 5, precondition rule;
spec/93_implementation_defined.md U4).
Decision D16. That the two fields are instructions (log entry 6), share the precondition, and that this refusal comes before
the others but that of an open burst (log entry 12) is the model's; log entry 4 for `moreOwed`. -/
def Obligations.SamplingWhileDrivingIsRefused : Prop :=
  ∀ (s : State) (n : Nat) (v : Word) (p : Bool), s.moreOwed = false → s.swdioDir = .out → n ≤ 32 →
    exec (.shiftIn n) s = .refused .swdioDriven ∧ exec .turnaroundRetake s = .refused .swdioDriven ∧
    exec (.trn .retake) s = .refused .swdioDriven ∧ exec (.data (.dataIn v p)) s = .refused .swdioDriven

/-- `clock_idle`: the level is applied, then n cycles with it, none sampled (spec/40_pin_driver.md section 3; decision D20). -/
def Obligations.ClockIdleHoldsItsLevel : Prop :=
  ∀ (s : State) (n : Nat), s.Quiet → n ≤ 65535 →
    exec (.clockIdle n 0) s = .next { s with
      trace := s.trace ++ List.replicate n ⟨.l, none⟩,
      swdioDir := .out, swdioOut := false, reply := some .done } ∧
    exec (.clockIdle n 1) s = .next { s with
      trace := s.trace ++ List.replicate n ⟨.h, none⟩,
      swdioDir := .out, swdioOut := true, reply := some .done } ∧
    exec (.clockIdle n 2) s = .next { s with
      trace := s.trace ++ List.replicate n ⟨.z, none⟩,
      swdioDir := .inp, reply := some .done }

/-- R104: `turnaround_release` is one released, unsampled cycle and leaves SWDIO released. -/
def Obligations.TurnaroundReleaseGivesTheLine : Prop :=
  ∀ s : State, s.Quiet →
    exec .turnaroundRelease s = .next { s with
      swdioDir := .inp, trace := s.trace ++ [⟨.z, none⟩], reply := some .done }

/-- `turnaround_retake`: the cycle first, with SWDIO released, then driven low (spec/40_pin_driver.md section 4; decision D3). -/
def Obligations.TurnaroundRetakeDrivesLow : Prop :=
  ∀ s : State, s.Quiet → s.swdioDir = .inp →
    exec .turnaroundRetake s = .next { s with
      swdioDir := .out, swdioOut := false, trace := s.trace ++ [⟨.z, none⟩], reply := some .done }

/-- The field TRN is one released, unsampled cycle in either direction, and leaves SWDIO with the target or driven low by the
host (spec/30_encoding.md section 2, spec/40_pin_driver.md section 4; decision D3). As an instruction of its own it is the
model's (log entry 6). -/
def Obligations.TurnaroundFieldInBothDirections : Prop :=
  ∀ s : State, s.Quiet →
    exec (.trn .release) s = .next { s with
      swdioDir := .inp, trace := s.trace ++ [⟨.z, none⟩], reply := some .done } ∧
    (s.swdioDir = .inp → exec (.trn .retake) s = .next { s with
      swdioDir := .out, swdioOut := false, trace := s.trace ++ [⟨.z, none⟩], reply := some .done })

/-- `set_speed`: the four codes of R82, and nothing but `speed` and the answer changes (spec/40_pin_driver.md section 5). -/
def Obligations.SetSpeedChangesSpeedOnly : Prop :=
  ∀ s : State, s.phase = .idle → s.moreOwed = false →
    exec (.setSpeed 0) s = .next { s with speed := .turbo, reply := some .done } ∧
    exec (.setSpeed 1) s = .next { s with speed := .fast, reply := some .done } ∧
    exec (.setSpeed 2) s = .next { s with speed := .medium, reply := some .done } ∧
    exec (.setSpeed 3) s = .next { s with speed := .slow, reply := some .done }

/-- `raw_clock` is `clock_idle(count, level)` and then the line state of `post`, coded like `level` (decision D21). -/
def Obligations.RawClockAppliesPost : Prop :=
  ∀ (s : State) (level post count : Nat), s.Quiet → level ≤ 2 → post ≤ 2 → count ≤ 65535 →
    ∃ m t, exec (.clockIdle count level) s = .next m ∧ exec (.rawClock level post count) s = .next t ∧
      t = { m with swdioDir := if post = 2 then .inp else .out,
                   swdioOut := if post = 2 then m.swdioOut else decide (post = 1) }

/-- The field IDLE is `IDLE_CYCLES` cycles with SWDIO driven low (spec/30_encoding.md section 3, spec/41_link_transaction.md
section 4; decision D9 for the number).
As an instruction of its own the field is the model's (log entry 6). -/
def Obligations.IdleFieldDrivesLow : Prop :=
  ∀ s : State, s.Quiet →
    exec .idle s = .next { s with
      trace := s.trace ++ idleRun s.params.idleCycles,
      swdioDir := .out, swdioOut := false, reply := some .done }

/-- The field DATA-OUT: 33 host-driven cycles, the word LSB first and then its parity (spec/30_encoding.md sections 2 and 3). As
an instruction of its own it is the model's (log entry 6). -/
def Obligations.DataOutFieldSendsParity : Prop :=
  ∀ (s : State) (v : Word), s.Quiet →
    exec (.data (.dataOut v)) s = .next { s with
      trace := s.trace ++ (lsbFirst v 32 ++ [par32 v]).map hostCycle,
      swdioDir := .out, swdioOut := par32 v, reply := some .done }

/-- The field DATA-IN: 33 sampled cycles, and the word or, on a parity mismatch, `ReadParityError` (spec/30_encoding.md section
3). As an instruction of its own it is the model's (log entry 6). So is `draws` (log entry 3). -/
def Obligations.DataInFieldChecksParity : Prop :=
  ∀ (s : State) (v : Word) (p : Bool), s.Quiet → s.swdioDir = .inp →
    exec (.data (.dataIn v p)) s = .next { s with
      trace := s.trace ++ (lsbFirst v 32 ++ [p]).map sampledCycle, draws := s.draws + 33,
      reply := some (if p = par32 v then .word v else .error .readParityError) }

/-- Each fixed-sequence row shifts its constant out LSB first (spec/30_encoding.md section 4; decision D12 for the alert). As
instructions of their own they are the model's (log entries 6 and 9).
`moreOwed` is the model's (log entry 4). -/
def Obligations.FixedSequencesShiftOut : Prop :=
  ∀ (s : State) (i : Instr) (v : Word) (n : Nat), sequenceOf i = some (v, n) → s.Ready →
    exec i s = .next { s with
      trace := s.trace ++ (List.range n).map (fun j => hostCycle (v.getLsbD j)),
      swdioDir := .out, swdioOut := v.getLsbD (n - 1), moreOwed := false, reply := some .done }

/-! ### Transactions -/

/-- A read answered WAIT k times, within the bound, and then OK with a word of good parity returns the word: the whole next
state (spec/41_link_transaction.md sections 2 to 6; decisions D1, D3, D7, D8, D9, D15, D19). The rows are `swd_read`, the eight
read bytes, and the acknowledge fields that such an answer begins with; that a byte's row and an acknowledge's row are the
transaction is the model's (log entries 6 and 10), and so are `line`, `draws` and `moreOwed` (log entries 3 and 4). -/
def Obligations.ReadReturnsTheWord : Prop :=
  ∀ (s : State) (i : Instr) (d : Descriptor) (bits rest : List Bool) (k : Nat) (v : Word),
    transactionOf s.params i = some (d, bits) → d.access = .read → legalAddr d.addr = true → s.Ready →
    s.connState ≠ .faulted → s.params.Constrained → k ≤ s.waitRetries →
    bits ++ s.line = waitBits s.params k ++ (lsbFirst s.params.ackOk 3 ++ (dataBits v (par32 v) ++ rest)) →
    exec i s = .next { s with
      trace := s.trace ++ (waitAttempts s.params d k ++ readAttempt d s.params.ackOk v (par32 v) ++
      trailRun s.params d.more),
      swdioDir := .out, swdioOut := false, txn := none, ackCount := s.ackCount + (k + 1), line := rest,
      draws := s.draws + (3 * k + 36), reply := some (.word v), moreOwed := d.more }

/-- A write answered WAIT k times, within the bound, and then OK sends its data once and ends with success: the whole next
state (spec/41_link_transaction.md sections 2 to 6; decisions D1, D3, D4, D7, D8, D9, D15, D19). The ABORT write, with data 0x1E,
is accepted in Faulted too (log entry 8 for its address). The rows are `swd_write`, the eight write bytes, and the acknowledge
fields that such an answer begins with; that a byte's row and an acknowledge's row are the transaction is the model's (log
entries 6 and 10), and so are `line`, `draws` and `moreOwed` (log entries 3 and 4). -/
def Obligations.WriteSendsItsDataOnce : Prop :=
  ∀ (s : State) (i : Instr) (d : Descriptor) (bits rest : List Bool) (k : Nat) (v : Word),
    transactionOf s.params i = some (d, bits) → d.access = .write v → legalAddr d.addr = true → s.Ready →
    s.Admits d → s.params.Constrained → k ≤ s.waitRetries →
    bits ++ s.line = waitBits s.params k ++ (lsbFirst s.params.ackOk 3 ++ rest) →
    exec i s = .next { s with
      trace := s.trace ++ (waitAttempts s.params d k ++ writeAttempt d s.params.ackOk v ++
      writeTrailRun s.params d.more),
      swdioDir := .out, swdioOut := false, txn := none, ackCount := s.ackCount + (k + 1), line := rest,
      draws := s.draws + (3 * k + 3), reply := some .done, moreOwed := d.more }

/-- A FAULT is not retried: `FaultAcknowledge`, no data phase, Connected becomes Faulted and no other state moves: the whole next
state (spec/41_link_transaction.md section 3, spec/43_connection_fsm.md section 4, spec/60_exceptions.md section 1; decisions
D1, D3, D4, D7, D8, D9, D10, D15, D19). The rows are all the transaction rows, ACK_FAULT among them; that a byte's row and an
acknowledge's row are the transaction is the model's (log entries 6 and 10), and so are `line`, `draws` and `moreOwed` (log
entries 3 and 4); log entry 8 for the address of the ABORT write. -/
def Obligations.FaultEndsTheTransaction : Prop :=
  ∀ (s : State) (i : Instr) (d : Descriptor) (bits rest : List Bool) (k : Nat),
    transactionOf s.params i = some (d, bits) → legalAddr d.addr = true → s.Ready →
    s.Admits d → s.params.Constrained → k ≤ s.waitRetries →
    bits ++ s.line = waitBits s.params k ++ (lsbFirst s.params.ackFault 3 ++ rest) →
    exec i s = .next { s with
      trace := s.trace ++ (waitAttempts s.params d k ++ shortAttempt d s.params.ackFault ++ trailRun s.params d.more),
      swdioDir := .out, swdioOut := false, txn := none, ackCount := s.ackCount + (k + 1), line := rest,
      draws := s.draws + (3 * k + 3), reply := some (.error .faultAcknowledge), moreOwed := d.more,
      connState := faultedFrom s.connState }

/-- An acknowledge that is none of the three codes: `BadAcknowledge` with the raw bits, not retried, no data phase, Connected
becomes Faulted and no other state moves: the whole next state (spec/41_link_transaction.md section 3, spec/43_connection_fsm.md
section 4, spec/60_exceptions.md section 1; decisions D1, D3, D5, D7, D8, D9, D10, D15, D19). The rows are all the transaction
rows, the five ACK_PROTOCOL rows among them; that a byte's row and an acknowledge's row are the transaction is the model's (log
entries 6 and 10), and so are `line`, `draws` and `moreOwed` (log entries 3 and 4); log entry 8 for the address of the ABORT
write. -/
def Obligations.ProtocolCarriesTheRawBits : Prop :=
  ∀ (s : State) (i : Instr) (d : Descriptor) (bits rest : List Bool) (k : Nat) (raw : BitVec 3),
    transactionOf s.params i = some (d, bits) → legalAddr d.addr = true → s.Ready →
    s.Admits d → s.params.Constrained → k ≤ s.waitRetries →
    raw ≠ s.params.ackOk → raw ≠ s.params.ackWait → raw ≠ s.params.ackFault →
    bits ++ s.line = waitBits s.params k ++ (lsbFirst raw 3 ++ rest) →
    exec i s = .next { s with
      trace := s.trace ++ (waitAttempts s.params d k ++ shortAttempt d raw ++ trailRun s.params d.more),
      swdioDir := .out, swdioOut := false, txn := none, ackCount := s.ackCount + (k + 1), line := rest,
      draws := s.draws + (3 * k + 3), reply := some (.error (.badAcknowledge raw)), moreOwed := d.more,
      connState := faultedFrom s.connState }

/-- WAIT answered `wait_retries + 1` times: `WaitAcknowledge`, the connection state unmoved: the whole next state
(spec/41_link_transaction.md section 3, spec/60_exceptions.md section 1; decisions D1, D3, D4, D7, D8, D9, D10, D15, D19). The
rows are all the transaction rows, ACK_WAIT among them; that a byte's row and an acknowledge's row are the transaction is the
model's (log entries 6 and 10), and so are `line`, `draws` and `moreOwed` (log entries 3 and 4); log entry 8 for the address of
the ABORT write. -/
def Obligations.WaitsAreBounded : Prop :=
  ∀ (s : State) (i : Instr) (d : Descriptor) (bits rest : List Bool),
    transactionOf s.params i = some (d, bits) → legalAddr d.addr = true → s.Ready →
    s.Admits d → s.params.Constrained →
    bits ++ s.line = waitBits s.params (s.waitRetries + 1) ++ rest →
    exec i s = .next { s with
      trace := s.trace ++ (waitAttempts s.params d (s.waitRetries + 1) ++ trailRun s.params d.more),
      swdioDir := .out, swdioOut := false, txn := none, ackCount := s.ackCount + (s.waitRetries + 1), line := rest,
      draws := s.draws + 3 * (s.waitRetries + 1), reply := some (.error .waitAcknowledge), moreOwed := d.more }

/-- A read acknowledged OK whose parity bit is wrong: `ReadParityError`, the word kept from the caller, the wire and the
connection state as on success (spec/41_link_transaction.md section 2, spec/60_exceptions.md section 1; decisions D1, D3, D6,
D7, D8, D9, D15, D19). The rows are those of `ReadReturnsTheWord`; that a byte's row and an acknowledge's row are the
transaction is the model's (log entries 6 and 10), and so are `line`, `draws` and `moreOwed` (log entries 3 and 4). -/
def Obligations.ParityMismatchIsAnError : Prop :=
  ∀ (s : State) (i : Instr) (d : Descriptor) (bits rest : List Bool) (k : Nat) (v : Word),
    transactionOf s.params i = some (d, bits) → d.access = .read → legalAddr d.addr = true → s.Ready →
    s.connState ≠ .faulted → s.params.Constrained → k ≤ s.waitRetries →
    bits ++ s.line = waitBits s.params k ++ (lsbFirst s.params.ackOk 3 ++ (dataBits v (!par32 v) ++ rest)) →
    exec i s = .next { s with
      trace := s.trace ++ (waitAttempts s.params d k ++ readAttempt d s.params.ackOk v (!par32 v) ++
      trailRun s.params d.more),
      swdioDir := .out, swdioOut := false, txn := none, ackCount := s.ackCount + (k + 1), line := rest,
      draws := s.draws + (3 * k + 36), reply := some (.error .readParityError), moreOwed := d.more }

/-- The cycle counts of a transaction answered WAIT k times first, with the parameters in place of their defaults: 13k + 46 for
an attempt with a data phase, be the parity bit right or wrong, 13k + 13 for FAULT and Protocol, 13 (wait_retries + 1) where
every answer is WAIT; and the trailing cycles by `more`. `ack_count` grows by one an attempt (spec/41_link_transaction.md
section 6, its R148, and section 4; decisions D1, D3, D4, D5, D6, D7, D8, D9, D10, D19). The rows are all
the transaction rows, the eight acknowledge rows among them; that a byte's row and an acknowledge's row are the transaction is
the model's (log entries 6 and 10); log entry 8 for the address of the ABORT write. -/
def Obligations.TransactionCycleCounts : Prop :=
  ∀ (s : State) (i : Instr) (d : Descriptor) (bits rest : List Bool) (k : Nat),
    transactionOf s.params i = some (d, bits) → legalAddr d.addr = true → s.Ready →
    s.Admits d → s.params.Constrained → k ≤ s.waitRetries →
    (∀ (v : Word) (p : Bool), d.access = .read →
      bits ++ s.line = waitBits s.params k ++ (lsbFirst s.params.ackOk 3 ++ (dataBits v p ++ rest)) →
      ∃ t, exec i s = .next t ∧ t.ackCount = s.ackCount + (k + 1) ∧
        t.trace.length = s.trace.length + (13 * k + 46 + if d.more then 0 else s.params.idleCycles)) ∧
    (∀ v : Word, d.access = .write v →
      bits ++ s.line = waitBits s.params k ++ (lsbFirst s.params.ackOk 3 ++ rest) →
      ∃ t, exec i s = .next t ∧ t.ackCount = s.ackCount + (k + 1) ∧
        t.trace.length =
          s.trace.length + (13 * k + 46 + if d.more then s.params.writeTrailCycles else s.params.idleCycles)) ∧
    (∀ raw : BitVec 3, raw ≠ s.params.ackOk → raw ≠ s.params.ackWait →
      bits ++ s.line = waitBits s.params k ++ (lsbFirst raw 3 ++ rest) →
      ∃ t, exec i s = .next t ∧ t.ackCount = s.ackCount + (k + 1) ∧
        t.trace.length = s.trace.length + (13 * k + 13 + if d.more then 0 else s.params.idleCycles)) ∧
    (bits ++ s.line = waitBits s.params (s.waitRetries + 1) ++ rest →
      ∃ t, exec i s = .next t ∧ t.ackCount = s.ackCount + (s.waitRetries + 1) ∧
        t.trace.length =
          s.trace.length + (13 * (s.waitRetries + 1) + if d.more then 0 else s.params.idleCycles))

/-- Every transaction ends, for every sequence of draws, with one of the answers of spec/60_exceptions.md section 8, the line
at rest, between 1 and `wait_retries + 1` ACK phases counted, and a bounded number of cycles (decisions D3, D4, D5, D6, D7, D8,
D9, D10, D19; the free values of log entry 3). The rows are all the transaction rows, the eight acknowledge rows among them; that
a byte's row and an acknowledge's row are the transaction is the model's (log entries 6 and 10), and so is `moreOwed` (log entry
4); log entry 8 for the address of the ABORT write. -/
def Obligations.EveryTransactionEnds : Prop :=
  ∀ (s : State) (i : Instr) (d : Descriptor) (bits : List Bool),
    transactionOf s.params i = some (d, bits) → legalAddr d.addr = true → s.Ready → s.Admits d →
    ∃ t cs r, exec i s = .next t ∧ t.AtRest ∧ t.Ready ∧ t.txn = none ∧ t.moreOwed = d.more ∧
      t.trace = s.trace ++ cs ∧
      cs.length ≤ 13 * s.waitRetries + 46 + max s.params.idleCycles s.params.writeTrailCycles ∧
      s.ackCount + 1 ≤ t.ackCount ∧ t.ackCount ≤ s.ackCount + (s.waitRetries + 1) ∧ t.idcode = s.idcode ∧
      t.reply = some r ∧
      (((d.access = .read ∧ ((∃ v, r = .word v) ∨ r = .error .readParityError)) ∨ (d.access ≠ .read ∧ r = .done)) ∨
        r = .error .waitAcknowledge ∨ r = .error .faultAcknowledge ∨ ∃ raw, r = .error (.badAcknowledge raw))

/-- In Connected, FAULT and Protocol make the state Faulted (R190); nothing else a transaction can end with moves it, and in any
other state no outcome does (spec/43_connection_fsm.md section 4; decision D15). So also the transactions inside
`abort_and_clear` in Connected (its section 3; decision D15). For every sequence of draws.
That a byte's row and an acknowledge's row are the transaction is the model's (log entries 6 and 10). -/
def Obligations.OutcomeTracking : Prop :=
  (∀ (s t : State) (i : Instr) (d : Descriptor) (bits : List Bool),
    transactionOf s.params i = some (d, bits) → exec i s = .next t →
    t.connState =
      if s.connState = .connected ∧
        (t.reply = some (.error .faultAcknowledge) ∨ ∃ raw, t.reply = some (.error (.badAcknowledge raw)))
      then .faulted else s.connState) ∧
  ∀ s t : State, s.connState = .connected → exec .abortAndClear s = .next t →
    t.connState =
      if t.reply = some (.error .faultAcknowledge) ∨ ∃ raw, t.reply = some (.error (.badAcknowledge raw))
      then .faulted else .connected

/-- In Faulted a transaction other than the ABORT write, the DP write of 0x1E at ABORT_ADDR, is refused
(spec/70_reset_and_hazards.md section 3, spec/43_connection_fsm.md section 4, spec/93_implementation_defined.md U1; decision
D16). That an address which differs from ABORT_ADDR in bits 7:4 only is another address here is the model's (log entry 8).
So is that a byte's row and an acknowledge's row are the transaction (log entries 6 and 10).
That this refusal comes before the check of the phase and of SWCLK is log entry 12. -/
def Obligations.FaultedOwesTheAbortWrite : Prop :=
  ∀ (s : State) (i : Instr) (d : Descriptor) (bits : List Bool),
    transactionOf s.params i = some (d, bits) → legalAddr d.addr = true → s.connState = .faulted →
    d.port ≠ .dp ∨ d.access ≠ .write 0x1E ∨ d.addr ≠ s.params.abortAddr.toNat →
    exec i s = .refused .abortWriteOwed

/-- An operand outside its legal range is answered `InvalidOperand` before any action, in every state: nothing but the answer
changes (spec/60_exceptions.md section 1; decision D20).
That it comes before every other check is log entry 11. -/
def Obligations.InvalidOperandChangesNothing : Prop :=
  ∀ (s : State) (i : Instr), i.wellFormed = false →
    exec i s = .next { s with reply := some (.error .invalidOperand) }

/-- After a transaction with `more` true, the pin commands, the fields TRN, DATA and IDLE and `disconnect` are refused
(spec/70_reset_and_hazards.md section 3, spec/93_implementation_defined.md U2; decisions D9 and D16). What the spec tells a model
is to refuse what is neither a transaction nor a line sequence. The model's own: the history bit `moreOwed` (log entry 4), that
the three fields are instructions of their own (log entry 6) and count as neither (log entry 9), that an operand refusal comes
before this one (log entry 11), and that this one comes before all others (log entry 12). -/
def Obligations.OpenBurstOwesASuccessor : Prop :=
  ∀ (s : State) (i : Instr), s.moreOwed = true → i.wellFormed = true → isPinCommand i = true ∨ i = .disconnect →
    exec i s = .refused .successorOwed

/-! ### The line sequences -/

/-- `reset_v1`, the whole next state (spec/42_line_sequences.md section 1). That each run has exactly its parameter's length is
decision D11 (R160(e)); that the sequence leaves no successor owed is log entry 4. -/
def Obligations.ResetV1Trace : Prop :=
  ∀ s : State, s.Ready →
    exec .resetV1 s = .next { s with
      trace := s.trace ++ (highRun s.params.resetHighCycles ++ shiftRun 0xE79E 16 ++ highRun s.params.resetHighCycles ++
      idleRun s.params.resetLowCycles),
      swdioDir := .out, swdioOut := false, moreOwed := false, reply := some .done }

/-- `reset_v2` with and without the optional sequence, the whole next state (spec/42_line_sequences.md section 2; decisions D11
and D12).
`moreOwed` is the model's (log entry 4). -/
def Obligations.ResetV2Trace : Prop :=
  ∀ (s : State) (jtag : Bool), s.Ready →
    exec (if jtag then .resetV2Jtag else .resetV2) s = .next { s with
      trace := s.trace ++ (highRun s.params.resetHighCycles ++ (if jtag then shiftRun 0x33BBBBBA 31 else []) ++
      highRun s.params.v2HighCycles ++ shiftRun 0x6209F392 32 ++ shiftRun 0x86852D95 32 ++ shiftRun 0xE3DDAFE9 32 ++
        shiftRun 0x19BC0EA2 32 ++ idleRun 4 ++ shiftRun 0x1A 8 ++
        (highRun s.params.resetHighCycles ++ shiftRun 0xE79E 16 ++ highRun s.params.resetHighCycles ++
          idleRun s.params.resetLowCycles)),
      swdioDir := .out, swdioOut := false, moreOwed := false, reply := some .done }

/-- `swd_to_dormant`: the last cycle carries 1 and the line is then low without a clock (spec/42_line_sequences.md section 3;
decision D32).
`moreOwed` is the model's (log entry 4). -/
def Obligations.SwdToDormantTrace : Prop :=
  ∀ s : State, s.Ready →
    exec .swdToDormant s = .next { s with
      trace := s.trace ++ (highRun s.params.resetHighCycles ++ shiftRun 0xE3BC 16),
      swdioDir := .out, swdioOut := false, moreOwed := false, reply := some .done }

/-- No line sequence depends on the target: other bits on the line change nothing but themselves (spec/42_line_sequences.md
section 3, last rule).
The fields `line` and `draws` are the model's (log entry 3), and so is that a fixed sequence is an instruction of its own (log
entry 6). -/
def Obligations.LineSequencesIgnoreTheTarget : Prop :=
  ∀ (s : State) (i : Instr) (line : List Bool) (draws : Nat), isLineSequence i = true →
    exec i { s with line := line, draws := draws } =
      mapNext (fun t => { t with line := line, draws := draws }) (exec i s)

/-! ### The connection -/

/-- `connect` on a target that answers the IDCODE read, after k WAITs, with a word of good parity: the reset, one read with
request byte 0xA5, Connected with the word, from every connection state (spec/43_connection_fsm.md section 1; decisions D1, D3,
D7, D8, D9, D11, D15, D19, D31).
`line`, `draws` and `moreOwed` are the model's (log entries 3 and 4). -/
def Obligations.ConnectReadsTheIdcode : Prop :=
  ∀ (s : State) (kind : ResetKind) (jtag : Bool) (k : Nat) (v : Word) (rest : List Bool),
    s.Ready → s.params.Constrained → k ≤ s.waitRetries →
    s.line = waitBits s.params k ++ (lsbFirst s.params.ackOk 3 ++ (dataBits v (par32 v) ++ rest)) →
    ∃ m, exec (match kind, jtag with | .v1, _ => .resetV1 | .v2, false => .resetV2 | .v2, true => .resetV2Jtag) s = .next m ∧
      exec (.connect kind jtag) s = .next { s with
        trace := m.trace ++ (waitAttempts s.params ⟨.dp, .read, 0x00, false⟩ k ++
        readAttempt ⟨.dp, .read, 0x00, false⟩ s.params.ackOk v (par32 v) ++ idleRun s.params.idleCycles),
        swdioDir := .out, swdioOut := false, txn := none, ackCount := s.ackCount + (k + 1), line := rest,
        draws := s.draws + (3 * k + 36), reply := some (.word v), moreOwed := false,
        connState := .connected, idcode := some v }

/-- `connect` always ends, for every sequence of draws: Connected with the word it returns, or an error and Disconnected with no
IDCODE, never Faulted (spec/43_connection_fsm.md section 1; decision D15).
`moreOwed` is the model's (log entry 4). The sequence of draws is log entry 3. -/
def Obligations.ConnectAlwaysEnds : Prop :=
  ∀ (s : State) (kind : ResetKind) (jtag : Bool), s.Ready →
    ∃ t, exec (.connect kind jtag) s = .next t ∧ t.AtRest ∧ t.Ready ∧ t.moreOwed = false ∧
      ((∃ v, t.reply = some (.word v) ∧ t.connState = .connected ∧ t.idcode = some v) ∨
        (∃ e, t.reply = some (.error e) ∧ t.connState = .disconnected ∧ t.idcode = none)) ∧
      s.ackCount + 1 ≤ t.ackCount ∧ t.ackCount ≤ s.ackCount + (s.waitRetries + 1)

/-- R187: `disconnect` forgets the session and touches neither pins nor trace. -/
def Obligations.DisconnectForgetsTheSession : Prop :=
  ∀ s : State, s.phase = .idle → s.moreOwed = false →
    exec .disconnect s = .next { s with connState := .disconnected, idcode := none, reply := some .done }

/-- `abort_and_clear` with both transactions acknowledged OK: the ABORT write of 0x1E, then the CTRL/STAT read, Faulted becomes
Connected and no other state moves (spec/43_connection_fsm.md section 3; decisions D1, D3, D4, D9, D14, D15, D19, D30).
`line`, `draws` and `moreOwed` are the model's (log entries 3 and 4). The two addresses are parameters (G1, log entry 5). -/
def Obligations.AbortAndClearRecovers : Prop :=
  ∀ (s : State) (v : Word) (rest : List Bool), s.Ready → s.params.Constrained →
    s.line = lsbFirst s.params.ackOk 3 ++ (lsbFirst s.params.ackOk 3 ++ (dataBits v (par32 v) ++ rest)) →
    exec .abortAndClear s = .next { s with
      trace := s.trace ++
      (writeAttempt ⟨.dp, .write 0x1E, s.params.abortAddr.toNat, true⟩ s.params.ackOk 0x1E ++
          idleRun s.params.writeTrailCycles ++
          (readAttempt ⟨.dp, .read, s.params.ctrlstatAddr.toNat, false⟩ s.params.ackOk v (par32 v) ++
            idleRun s.params.idleCycles)),
      swdioDir := .out, swdioOut := false, txn := none, ackCount := s.ackCount + 2, line := rest,
      draws := s.draws + 39, reply := some (.word v), moreOwed := false,
      connState := if s.connState = .faulted then .connected else s.connState }

/-- `abort_and_clear` whose ABORT write fails ends right after its last retake turnaround: the read is not issued, no idle cycle
follows. The write fails by an acknowledge that is neither OK nor WAIT, after k WAITs within the bound (FAULT or Protocol:
Connected becomes Faulted, no other state moves), or by WAIT `wait_retries + 1` times (no state moves): the whole next state
(spec/43_connection_fsm.md section 3, spec/41_link_transaction.md sections 3 and 4; decisions D1, D3, D4, D5, D7, D8, D9, D10,
D14, D15, D19, D30; conflict C14; D5 is U12). ABORT_ADDR is a parameter (G1, log entry 5); `line`, `draws` and `moreOwed` are the
model's (log entries 3 and 4). -/
def Obligations.FailingAbortWriteStops : Prop :=
  ∀ (s : State) (rest : List Bool), s.Ready → s.params.Constrained →
    (∀ (k : Nat) (raw : BitVec 3), k ≤ s.waitRetries → raw ≠ s.params.ackOk → raw ≠ s.params.ackWait →
      s.line = waitBits s.params k ++ (lsbFirst raw 3 ++ rest) →
      exec .abortAndClear s = .next { s with
        trace := s.trace ++
          (waitAttempts s.params ⟨.dp, .write 0x1E, s.params.abortAddr.toNat, true⟩ k ++
            shortAttempt ⟨.dp, .write 0x1E, s.params.abortAddr.toNat, true⟩ raw),
        swdioDir := .out, swdioOut := false, txn := none, ackCount := s.ackCount + (k + 1), line := rest,
        draws := s.draws + (3 * k + 3), moreOwed := false,
        reply := some (.error (if raw = s.params.ackFault then .faultAcknowledge else .badAcknowledge raw)),
        connState := faultedFrom s.connState }) ∧
    (s.line = waitBits s.params (s.waitRetries + 1) ++ rest →
      exec .abortAndClear s = .next { s with
        trace := s.trace ++
          waitAttempts s.params ⟨.dp, .write 0x1E, s.params.abortAddr.toNat, true⟩ (s.waitRetries + 1),
        swdioDir := .out, swdioOut := false, txn := none, ackCount := s.ackCount + (s.waitRetries + 1), line := rest,
        draws := s.draws + 3 * (s.waitRetries + 1), reply := some (.error .waitAcknowledge), moreOwed := false })

/-- `abort_and_clear` always ends, for every sequence of draws; it leaves Faulted exactly when it returns a word
(spec/43_connection_fsm.md section 3; decision D15).
`moreOwed` is the model's (log entry 4). The sequence of draws is log entry 3. -/
def Obligations.AbortAndClearAlwaysEnds : Prop :=
  ∀ s : State, s.Ready →
    ∃ t r, exec .abortAndClear s = .next t ∧ t.AtRest ∧ t.Ready ∧ t.moreOwed = false ∧ t.idcode = s.idcode ∧
      t.reply = some r ∧ ((∃ v, r = .word v) ∨ ∃ e, r = .error e) ∧
      (s.connState = .faulted → (t.connState = .connected ↔ ∃ v, r = .word v) ∧
        (t.connState = .faulted ↔ ∃ e, r = .error e))

/-! ### The machine -/

/-- Every state element right after reset (spec/10_state.md section 8; decision D17). The model's own values: `speed` (log entry
1), the empty port (log entry 6), and the parameters' defaults of spec/00_scope.md section 4 (log entry 5; decisions D1 and D14,
and the addresses of G1). -/
def Obligations.ResetLeaves : Prop :=
  lineStatus State.reset = (false, .out, false) ∧ State.reset.waitRetries = 8 ∧ State.reset.connState = .disconnected ∧
  State.reset.idcode = none ∧ State.reset.ackCount = 0 ∧ State.reset.phase = .idle ∧ State.reset.txn = none ∧
  State.reset.trace = [] ∧ State.reset.port = [] ∧ State.reset.speed = .turbo ∧
  State.reset.params = {
    idleCycles := 8, writeTrailCycles := 2, resetHighCycles := 50, resetLowCycles := 2, v2HighCycles := 8,
    ackOk := 1, ackWait := 2, ackFault := 4, abortAddr := 0x00, ctrlstatAddr := 0x04 }

/-- The invariant of the states between commands holds at reset.
The parameters' defaults are log entry 5. -/
def Obligations.ResetMeetsTheInvariant : Prop := State.reset.Inv

/-- Every step keeps it: SWCLK low, phase Idle, no register held, no transient connection state, an IDCODE exactly while a
session exists, only released cycles sampled (spec/10_state.md sections 2, 4, 5 and 7, spec/43_connection_fsm.md section 4,
spec/20_memory.md section 2; decisions D2, D15, D29, D33).
The command port is log entry 6, a step without a packet log entries 13 and 20. -/
def Obligations.EveryStepKeepsTheInvariant : Prop :=
  ∀ s t : State, s.Inv → step s = .next t → t.Inv

/-- A step is `exec` of the instruction that the packet at the port decodes to, with the packet taken from the port; without a
packet nothing happens, also while a successor is owed; a packet that decodes to nothing is refused (spec/20_memory.md section
7, spec/60_exceptions.md section 2). The port is the model's (log entry 6), and so are the step without a packet (log entries 13
and 20) and the refusal of such a packet (log entry 13). -/
def Obligations.StepRunsTheNextCommand : Prop :=
  ∀ (s : State) (k : Packet) (rest : List Packet) (i : Instr) (e : DecodeError),
    (s.port = k :: rest → decode k = .ok i → step s = exec i { s with port := rest }) ∧
    (s.port = k :: rest → decode k = .error e → step s = .refused (.undecodable e)) ∧
    (s.port = [] → step s = .next s)

/-- A command adds cycles at the end of the trace and never takes one back; it does not touch the commands waiting
(spec/20_memory.md section 7, spec/10_state.md section 9).
The commands waiting are the model's port (log entry 6). -/
def Obligations.TraceOnlyGrows : Prop :=
  ∀ (s t : State) (i : Instr), exec i s = .next t → ∃ cs, t.trace = s.trace ++ cs ∧ t.port = s.port

/-- Two runs that differ only in `speed` have the same outcome, the same trace and the same state but for `speed` itself
(spec/10_state.md section 3; decision D27). -/
def Obligations.SpeedIsTimingOnly : Prop :=
  ∀ (s : State) (i : Instr) (sp : Speed), (∀ c, i ≠ .setSpeed c) →
    exec i { s with speed := sp } = mapNext (fun t => { t with speed := sp }) (exec i s)

/-- The retry bound and the parameters are constant, and only `set_speed` writes `speed` (spec/10_state.md section 3;
decisions D7, D17). -/
def Obligations.ConfigurationIsConstant : Prop :=
  ∀ (s t : State) (i : Instr), exec i s = .next t →
    t.waitRetries = s.waitRetries ∧ t.params = s.params ∧ ((∀ c, i ≠ .setSpeed c) → t.speed = s.speed)

/-- The pin commands and the line sequences write neither the connection state, nor the IDCODE, nor the counter, nor a
transaction register (spec/40_pin_driver.md, common properties; spec/42_line_sequences.md section 0, common properties).
That the fields and the fixed sequences are instructions of their own is the model's (log entry 6). -/
def Obligations.PinCommandsLeaveTheSession : Prop :=
  ∀ (s t : State) (i : Instr), isPinCommand i = true ∨ isLineSequence i = true → exec i s = .next t →
    t.connState = s.connState ∧ t.idcode = s.idcode ∧ t.ackCount = s.ackCount ∧ t.txn = s.txn ∧ t.phase = s.phase

/-- Every link command that is carried out ends with line status (0, Out, 0) (spec/10_state.md section 9,
spec/41_link_transaction.md section 6).
That a byte's row and an acknowledge's row are the transaction is the model's (log entries 6 and 10). -/
def Obligations.LinkCommandsEndAtRest : Prop :=
  ∀ (s t : State) (i : Instr), i.wellFormed = true →
    ((transactionOf s.params i).isSome = true ∨ i = .resetV1 ∨ i = .resetV2 ∨ i = .resetV2Jtag ∨ i = .swdToDormant ∨
      i = .abortAndClear ∨ ∃ kind jtag, i = .connect kind jtag) →
    exec i s = .next t → t.AtRest

/-- The counter never falls, and only the commands that run a transaction move it (spec/60_exceptions.md section 7; decision
D19).
That a byte's row and an acknowledge's row run a transaction is the model's (log entries 6 and 10). -/
def Obligations.AckCountOnlyGrows : Prop :=
  ∀ (s t : State) (i : Instr), exec i s = .next t →
    s.ackCount ≤ t.ackCount ∧
    (t.ackCount ≠ s.ackCount →
      (transactionOf s.params i).isSome = true ∨ i = .abortAndClear ∨ ∃ kind jtag, i = .connect kind jtag)

/-- Every command that is carried out is answered by itself: a next state holds an answer, and it is the same next state whatever
answer the state held before; no command ends in a fault of the model (spec/60_exceptions.md sections 1 and 8; spec/10_state.md
section 4 for the fault that is never raised). -/
def Obligations.NoCommandFaults : Prop :=
  ∀ (s : State) (i : Instr), (∀ e, exec i s ≠ .fault e) ∧ (∀ t, exec i s = .next t → t.reply.isSome = true) ∧
    ∀ r, exec i { s with reply := r } = exec i s

/-- The connection state moves only along the transition table (spec/43_connection_fsm.md, R181's cells; decision D15): from a
state that is not transient, a command ends in Connected only by `connect` or, from Faulted, by `abort_and_clear`; in Faulted
only from Connected by a transaction or `abort_and_clear`; in Disconnected only by `connect` or `disconnect`; never in a
transient state.
That a byte's row and an acknowledge's row are the transaction is the model's (log entries 6 and 10). -/
def Obligations.ConnectionTransitions : Prop :=
  ∀ (s t : State) (i : Instr), s.connState ≠ .resetting → s.connState ≠ .idCodeRead → exec i s = .next t →
    t.connState ≠ .resetting ∧ t.connState ≠ .idCodeRead ∧
    (t.connState ≠ s.connState →
      (t.connState = .connected →
        (∃ kind jtag, i = .connect kind jtag) ∨ (s.connState = .faulted ∧ i = .abortAndClear)) ∧
      (t.connState = .faulted →
        s.connState = .connected ∧ ((transactionOf s.params i).isSome = true ∨ i = .abortAndClear)) ∧
      (t.connState = .disconnected → i = .disconnect ∨ ∃ kind jtag, i = .connect kind jtag))
end

