-- ==== Sys2Proof/Laws/State.lean ====
section
/-! SUPPORT. The fields of every state update, one lemma per field per update, true by definition. -/

namespace Sys2Proof.Machine

@[simp] theorem drive_swclk (level : Bool) (s : State) : (drive level s).swclk = s.swclk := rfl
@[simp] theorem drive_swdioDir (level : Bool) (s : State) : (drive level s).swdioDir = .out := rfl
@[simp] theorem drive_swdioOut (level : Bool) (s : State) : (drive level s).swdioOut = level := rfl
@[simp] theorem drive_speed (level : Bool) (s : State) : (drive level s).speed = s.speed := rfl
@[simp] theorem drive_waitRetries (level : Bool) (s : State) : (drive level s).waitRetries = s.waitRetries := rfl
@[simp] theorem drive_connState (level : Bool) (s : State) : (drive level s).connState = s.connState := rfl
@[simp] theorem drive_idcode (level : Bool) (s : State) : (drive level s).idcode = s.idcode := rfl
@[simp] theorem drive_ackCount (level : Bool) (s : State) : (drive level s).ackCount = s.ackCount := rfl
@[simp] theorem drive_txn (level : Bool) (s : State) : (drive level s).txn = s.txn := rfl
@[simp] theorem drive_phase (level : Bool) (s : State) : (drive level s).phase = s.phase := rfl
@[simp] theorem drive_trace (level : Bool) (s : State) : (drive level s).trace = s.trace := rfl
@[simp] theorem drive_port (level : Bool) (s : State) : (drive level s).port = s.port := rfl
@[simp] theorem drive_reply (level : Bool) (s : State) : (drive level s).reply = s.reply := rfl
@[simp] theorem drive_line (level : Bool) (s : State) : (drive level s).line = s.line := rfl
@[simp] theorem drive_draws (level : Bool) (s : State) : (drive level s).draws = s.draws := rfl
@[simp] theorem drive_moreOwed (level : Bool) (s : State) : (drive level s).moreOwed = s.moreOwed := rfl
@[simp] theorem drive_params (level : Bool) (s : State) : (drive level s).params = s.params := rfl

@[simp] theorem release_swclk (s : State) : (release s).swclk = s.swclk := rfl
@[simp] theorem release_swdioDir (s : State) : (release s).swdioDir = .inp := rfl
@[simp] theorem release_swdioOut (s : State) : (release s).swdioOut = s.swdioOut := rfl
@[simp] theorem release_speed (s : State) : (release s).speed = s.speed := rfl
@[simp] theorem release_waitRetries (s : State) : (release s).waitRetries = s.waitRetries := rfl
@[simp] theorem release_connState (s : State) : (release s).connState = s.connState := rfl
@[simp] theorem release_idcode (s : State) : (release s).idcode = s.idcode := rfl
@[simp] theorem release_ackCount (s : State) : (release s).ackCount = s.ackCount := rfl
@[simp] theorem release_txn (s : State) : (release s).txn = s.txn := rfl
@[simp] theorem release_phase (s : State) : (release s).phase = s.phase := rfl
@[simp] theorem release_trace (s : State) : (release s).trace = s.trace := rfl
@[simp] theorem release_port (s : State) : (release s).port = s.port := rfl
@[simp] theorem release_reply (s : State) : (release s).reply = s.reply := rfl
@[simp] theorem release_line (s : State) : (release s).line = s.line := rfl
@[simp] theorem release_draws (s : State) : (release s).draws = s.draws := rfl
@[simp] theorem release_moreOwed (s : State) : (release s).moreOwed = s.moreOwed := rfl
@[simp] theorem release_params (s : State) : (release s).params = s.params := rfl

@[simp] theorem record_swclk (c : Cycle) (s : State) : (record c s).swclk = s.swclk := rfl
@[simp] theorem record_swdioDir (c : Cycle) (s : State) : (record c s).swdioDir = s.swdioDir := rfl
@[simp] theorem record_swdioOut (c : Cycle) (s : State) : (record c s).swdioOut = s.swdioOut := rfl
@[simp] theorem record_speed (c : Cycle) (s : State) : (record c s).speed = s.speed := rfl
@[simp] theorem record_waitRetries (c : Cycle) (s : State) : (record c s).waitRetries = s.waitRetries := rfl
@[simp] theorem record_connState (c : Cycle) (s : State) : (record c s).connState = s.connState := rfl
@[simp] theorem record_idcode (c : Cycle) (s : State) : (record c s).idcode = s.idcode := rfl
@[simp] theorem record_ackCount (c : Cycle) (s : State) : (record c s).ackCount = s.ackCount := rfl
@[simp] theorem record_txn (c : Cycle) (s : State) : (record c s).txn = s.txn := rfl
@[simp] theorem record_phase (c : Cycle) (s : State) : (record c s).phase = s.phase := rfl
@[simp] theorem record_trace (c : Cycle) (s : State) : (record c s).trace = s.trace ++ [c] := rfl
@[simp] theorem record_port (c : Cycle) (s : State) : (record c s).port = s.port := rfl
@[simp] theorem record_reply (c : Cycle) (s : State) : (record c s).reply = s.reply := rfl
@[simp] theorem record_line (c : Cycle) (s : State) : (record c s).line = s.line := rfl
@[simp] theorem record_draws (c : Cycle) (s : State) : (record c s).draws = s.draws := rfl
@[simp] theorem record_moreOwed (c : Cycle) (s : State) : (record c s).moreOwed = s.moreOwed := rfl
@[simp] theorem record_params (c : Cycle) (s : State) : (record c s).params = s.params := rfl

@[simp] theorem rise_swclk (s : State) : (rise s).swclk = true := rfl
@[simp] theorem rise_swdioDir (s : State) : (rise s).swdioDir = s.swdioDir := rfl
@[simp] theorem rise_swdioOut (s : State) : (rise s).swdioOut = s.swdioOut := rfl
@[simp] theorem rise_speed (s : State) : (rise s).speed = s.speed := rfl
@[simp] theorem rise_waitRetries (s : State) : (rise s).waitRetries = s.waitRetries := rfl
@[simp] theorem rise_connState (s : State) : (rise s).connState = s.connState := rfl
@[simp] theorem rise_idcode (s : State) : (rise s).idcode = s.idcode := rfl
@[simp] theorem rise_ackCount (s : State) : (rise s).ackCount = s.ackCount := rfl
@[simp] theorem rise_txn (s : State) : (rise s).txn = s.txn := rfl
@[simp] theorem rise_phase (s : State) : (rise s).phase = s.phase := rfl
@[simp] theorem rise_trace (s : State) : (rise s).trace = s.trace := rfl
@[simp] theorem rise_port (s : State) : (rise s).port = s.port := rfl
@[simp] theorem rise_reply (s : State) : (rise s).reply = s.reply := rfl
@[simp] theorem rise_line (s : State) : (rise s).line = s.line := rfl
@[simp] theorem rise_draws (s : State) : (rise s).draws = s.draws := rfl
@[simp] theorem rise_moreOwed (s : State) : (rise s).moreOwed = s.moreOwed := rfl
@[simp] theorem rise_params (s : State) : (rise s).params = s.params := rfl

@[simp] theorem fall_swclk (s : State) : (fall s).swclk = false := rfl
@[simp] theorem fall_swdioDir (s : State) : (fall s).swdioDir = s.swdioDir := rfl
@[simp] theorem fall_swdioOut (s : State) : (fall s).swdioOut = s.swdioOut := rfl
@[simp] theorem fall_speed (s : State) : (fall s).speed = s.speed := rfl
@[simp] theorem fall_waitRetries (s : State) : (fall s).waitRetries = s.waitRetries := rfl
@[simp] theorem fall_connState (s : State) : (fall s).connState = s.connState := rfl
@[simp] theorem fall_idcode (s : State) : (fall s).idcode = s.idcode := rfl
@[simp] theorem fall_ackCount (s : State) : (fall s).ackCount = s.ackCount := rfl
@[simp] theorem fall_txn (s : State) : (fall s).txn = s.txn := rfl
@[simp] theorem fall_phase (s : State) : (fall s).phase = s.phase := rfl
@[simp] theorem fall_trace (s : State) : (fall s).trace = s.trace := rfl
@[simp] theorem fall_port (s : State) : (fall s).port = s.port := rfl
@[simp] theorem fall_reply (s : State) : (fall s).reply = s.reply := rfl
@[simp] theorem fall_line (s : State) : (fall s).line = s.line := rfl
@[simp] theorem fall_draws (s : State) : (fall s).draws = s.draws := rfl
@[simp] theorem fall_moreOwed (s : State) : (fall s).moreOwed = s.moreOwed := rfl
@[simp] theorem fall_params (s : State) : (fall s).params = s.params := rfl

@[simp] theorem takeBit_swclk (s : State) : (takeBit s).swclk = s.swclk := rfl
@[simp] theorem takeBit_swdioDir (s : State) : (takeBit s).swdioDir = s.swdioDir := rfl
@[simp] theorem takeBit_swdioOut (s : State) : (takeBit s).swdioOut = s.swdioOut := rfl
@[simp] theorem takeBit_speed (s : State) : (takeBit s).speed = s.speed := rfl
@[simp] theorem takeBit_waitRetries (s : State) : (takeBit s).waitRetries = s.waitRetries := rfl
@[simp] theorem takeBit_connState (s : State) : (takeBit s).connState = s.connState := rfl
@[simp] theorem takeBit_idcode (s : State) : (takeBit s).idcode = s.idcode := rfl
@[simp] theorem takeBit_ackCount (s : State) : (takeBit s).ackCount = s.ackCount := rfl
@[simp] theorem takeBit_txn (s : State) : (takeBit s).txn = s.txn := rfl
@[simp] theorem takeBit_phase (s : State) : (takeBit s).phase = s.phase := rfl
@[simp] theorem takeBit_trace (s : State) : (takeBit s).trace = s.trace := rfl
@[simp] theorem takeBit_port (s : State) : (takeBit s).port = s.port := rfl
@[simp] theorem takeBit_reply (s : State) : (takeBit s).reply = s.reply := rfl
@[simp] theorem takeBit_line (s : State) : (takeBit s).line = s.line.tail := rfl
@[simp] theorem takeBit_draws (s : State) : (takeBit s).draws = s.draws + 1 := rfl
@[simp] theorem takeBit_moreOwed (s : State) : (takeBit s).moreOwed = s.moreOwed := rfl
@[simp] theorem takeBit_params (s : State) : (takeBit s).params = s.params := rfl

@[simp] theorem enter_swclk (p : Phase) (s : State) : (enter p s).swclk = s.swclk := rfl
@[simp] theorem enter_swdioDir (p : Phase) (s : State) : (enter p s).swdioDir = s.swdioDir := rfl
@[simp] theorem enter_swdioOut (p : Phase) (s : State) : (enter p s).swdioOut = s.swdioOut := rfl
@[simp] theorem enter_speed (p : Phase) (s : State) : (enter p s).speed = s.speed := rfl
@[simp] theorem enter_waitRetries (p : Phase) (s : State) : (enter p s).waitRetries = s.waitRetries := rfl
@[simp] theorem enter_connState (p : Phase) (s : State) : (enter p s).connState = s.connState := rfl
@[simp] theorem enter_idcode (p : Phase) (s : State) : (enter p s).idcode = s.idcode := rfl
@[simp] theorem enter_ackCount (p : Phase) (s : State) : (enter p s).ackCount = s.ackCount := rfl
@[simp] theorem enter_txn (p : Phase) (s : State) : (enter p s).txn = s.txn := rfl
@[simp] theorem enter_phase (p : Phase) (s : State) : (enter p s).phase = p := rfl
@[simp] theorem enter_trace (p : Phase) (s : State) : (enter p s).trace = s.trace := rfl
@[simp] theorem enter_port (p : Phase) (s : State) : (enter p s).port = s.port := rfl
@[simp] theorem enter_reply (p : Phase) (s : State) : (enter p s).reply = s.reply := rfl
@[simp] theorem enter_line (p : Phase) (s : State) : (enter p s).line = s.line := rfl
@[simp] theorem enter_draws (p : Phase) (s : State) : (enter p s).draws = s.draws := rfl
@[simp] theorem enter_moreOwed (p : Phase) (s : State) : (enter p s).moreOwed = s.moreOwed := rfl
@[simp] theorem enter_params (p : Phase) (s : State) : (enter p s).params = s.params := rfl

@[simp] theorem loadTxn_swclk (t : Txn) (s : State) : (loadTxn t s).swclk = s.swclk := rfl
@[simp] theorem loadTxn_swdioDir (t : Txn) (s : State) : (loadTxn t s).swdioDir = s.swdioDir := rfl
@[simp] theorem loadTxn_swdioOut (t : Txn) (s : State) : (loadTxn t s).swdioOut = s.swdioOut := rfl
@[simp] theorem loadTxn_speed (t : Txn) (s : State) : (loadTxn t s).speed = s.speed := rfl
@[simp] theorem loadTxn_waitRetries (t : Txn) (s : State) : (loadTxn t s).waitRetries = s.waitRetries := rfl
@[simp] theorem loadTxn_connState (t : Txn) (s : State) : (loadTxn t s).connState = s.connState := rfl
@[simp] theorem loadTxn_idcode (t : Txn) (s : State) : (loadTxn t s).idcode = s.idcode := rfl
@[simp] theorem loadTxn_ackCount (t : Txn) (s : State) : (loadTxn t s).ackCount = s.ackCount := rfl
@[simp] theorem loadTxn_txn (t : Txn) (s : State) : (loadTxn t s).txn = some t := rfl
@[simp] theorem loadTxn_phase (t : Txn) (s : State) : (loadTxn t s).phase = s.phase := rfl
@[simp] theorem loadTxn_trace (t : Txn) (s : State) : (loadTxn t s).trace = s.trace := rfl
@[simp] theorem loadTxn_port (t : Txn) (s : State) : (loadTxn t s).port = s.port := rfl
@[simp] theorem loadTxn_reply (t : Txn) (s : State) : (loadTxn t s).reply = s.reply := rfl
@[simp] theorem loadTxn_line (t : Txn) (s : State) : (loadTxn t s).line = s.line := rfl
@[simp] theorem loadTxn_draws (t : Txn) (s : State) : (loadTxn t s).draws = s.draws := rfl
@[simp] theorem loadTxn_moreOwed (t : Txn) (s : State) : (loadTxn t s).moreOwed = s.moreOwed := rfl
@[simp] theorem loadTxn_params (t : Txn) (s : State) : (loadTxn t s).params = s.params := rfl

@[simp] theorem updateTxn_swclk (f : Txn → Txn) (s : State) : (updateTxn f s).swclk = s.swclk := rfl
@[simp] theorem updateTxn_swdioDir (f : Txn → Txn) (s : State) : (updateTxn f s).swdioDir = s.swdioDir := rfl
@[simp] theorem updateTxn_swdioOut (f : Txn → Txn) (s : State) : (updateTxn f s).swdioOut = s.swdioOut := rfl
@[simp] theorem updateTxn_speed (f : Txn → Txn) (s : State) : (updateTxn f s).speed = s.speed := rfl
@[simp] theorem updateTxn_waitRetries (f : Txn → Txn) (s : State) : (updateTxn f s).waitRetries = s.waitRetries := rfl
@[simp] theorem updateTxn_connState (f : Txn → Txn) (s : State) : (updateTxn f s).connState = s.connState := rfl
@[simp] theorem updateTxn_idcode (f : Txn → Txn) (s : State) : (updateTxn f s).idcode = s.idcode := rfl
@[simp] theorem updateTxn_ackCount (f : Txn → Txn) (s : State) : (updateTxn f s).ackCount = s.ackCount := rfl
@[simp] theorem updateTxn_txn (f : Txn → Txn) (s : State) : (updateTxn f s).txn = s.txn.map f := rfl
@[simp] theorem updateTxn_phase (f : Txn → Txn) (s : State) : (updateTxn f s).phase = s.phase := rfl
@[simp] theorem updateTxn_trace (f : Txn → Txn) (s : State) : (updateTxn f s).trace = s.trace := rfl
@[simp] theorem updateTxn_port (f : Txn → Txn) (s : State) : (updateTxn f s).port = s.port := rfl
@[simp] theorem updateTxn_reply (f : Txn → Txn) (s : State) : (updateTxn f s).reply = s.reply := rfl
@[simp] theorem updateTxn_line (f : Txn → Txn) (s : State) : (updateTxn f s).line = s.line := rfl
@[simp] theorem updateTxn_draws (f : Txn → Txn) (s : State) : (updateTxn f s).draws = s.draws := rfl
@[simp] theorem updateTxn_moreOwed (f : Txn → Txn) (s : State) : (updateTxn f s).moreOwed = s.moreOwed := rfl
@[simp] theorem updateTxn_params (f : Txn → Txn) (s : State) : (updateTxn f s).params = s.params := rfl

@[simp] theorem endTxn_swclk (s : State) : (endTxn s).swclk = s.swclk := rfl
@[simp] theorem endTxn_swdioDir (s : State) : (endTxn s).swdioDir = s.swdioDir := rfl
@[simp] theorem endTxn_swdioOut (s : State) : (endTxn s).swdioOut = s.swdioOut := rfl
@[simp] theorem endTxn_speed (s : State) : (endTxn s).speed = s.speed := rfl
@[simp] theorem endTxn_waitRetries (s : State) : (endTxn s).waitRetries = s.waitRetries := rfl
@[simp] theorem endTxn_connState (s : State) : (endTxn s).connState = s.connState := rfl
@[simp] theorem endTxn_idcode (s : State) : (endTxn s).idcode = s.idcode := rfl
@[simp] theorem endTxn_ackCount (s : State) : (endTxn s).ackCount = s.ackCount := rfl
@[simp] theorem endTxn_txn (s : State) : (endTxn s).txn = none := rfl
@[simp] theorem endTxn_phase (s : State) : (endTxn s).phase = .idle := rfl
@[simp] theorem endTxn_trace (s : State) : (endTxn s).trace = s.trace := rfl
@[simp] theorem endTxn_port (s : State) : (endTxn s).port = s.port := rfl
@[simp] theorem endTxn_reply (s : State) : (endTxn s).reply = s.reply := rfl
@[simp] theorem endTxn_line (s : State) : (endTxn s).line = s.line := rfl
@[simp] theorem endTxn_draws (s : State) : (endTxn s).draws = s.draws := rfl
@[simp] theorem endTxn_moreOwed (s : State) : (endTxn s).moreOwed = s.moreOwed := rfl
@[simp] theorem endTxn_params (s : State) : (endTxn s).params = s.params := rfl

@[simp] theorem answer_swclk (r : Reply) (s : State) : (answer r s).swclk = s.swclk := rfl
@[simp] theorem answer_swdioDir (r : Reply) (s : State) : (answer r s).swdioDir = s.swdioDir := rfl
@[simp] theorem answer_swdioOut (r : Reply) (s : State) : (answer r s).swdioOut = s.swdioOut := rfl
@[simp] theorem answer_speed (r : Reply) (s : State) : (answer r s).speed = s.speed := rfl
@[simp] theorem answer_waitRetries (r : Reply) (s : State) : (answer r s).waitRetries = s.waitRetries := rfl
@[simp] theorem answer_connState (r : Reply) (s : State) : (answer r s).connState = s.connState := rfl
@[simp] theorem answer_idcode (r : Reply) (s : State) : (answer r s).idcode = s.idcode := rfl
@[simp] theorem answer_ackCount (r : Reply) (s : State) : (answer r s).ackCount = s.ackCount := rfl
@[simp] theorem answer_txn (r : Reply) (s : State) : (answer r s).txn = s.txn := rfl
@[simp] theorem answer_phase (r : Reply) (s : State) : (answer r s).phase = s.phase := rfl
@[simp] theorem answer_trace (r : Reply) (s : State) : (answer r s).trace = s.trace := rfl
@[simp] theorem answer_port (r : Reply) (s : State) : (answer r s).port = s.port := rfl
@[simp] theorem answer_reply (r : Reply) (s : State) : (answer r s).reply = some r := rfl
@[simp] theorem answer_line (r : Reply) (s : State) : (answer r s).line = s.line := rfl
@[simp] theorem answer_draws (r : Reply) (s : State) : (answer r s).draws = s.draws := rfl
@[simp] theorem answer_moreOwed (r : Reply) (s : State) : (answer r s).moreOwed = s.moreOwed := rfl
@[simp] theorem answer_params (r : Reply) (s : State) : (answer r s).params = s.params := rfl

@[simp] theorem setMoreOwed_swclk (more : Bool) (s : State) : (setMoreOwed more s).swclk = s.swclk := rfl
@[simp] theorem setMoreOwed_swdioDir (more : Bool) (s : State) : (setMoreOwed more s).swdioDir = s.swdioDir := rfl
@[simp] theorem setMoreOwed_swdioOut (more : Bool) (s : State) : (setMoreOwed more s).swdioOut = s.swdioOut := rfl
@[simp] theorem setMoreOwed_speed (more : Bool) (s : State) : (setMoreOwed more s).speed = s.speed := rfl
@[simp] theorem setMoreOwed_waitRetries (more : Bool) (s : State) : (setMoreOwed more s).waitRetries = s.waitRetries := rfl
@[simp] theorem setMoreOwed_connState (more : Bool) (s : State) : (setMoreOwed more s).connState = s.connState := rfl
@[simp] theorem setMoreOwed_idcode (more : Bool) (s : State) : (setMoreOwed more s).idcode = s.idcode := rfl
@[simp] theorem setMoreOwed_ackCount (more : Bool) (s : State) : (setMoreOwed more s).ackCount = s.ackCount := rfl
@[simp] theorem setMoreOwed_txn (more : Bool) (s : State) : (setMoreOwed more s).txn = s.txn := rfl
@[simp] theorem setMoreOwed_phase (more : Bool) (s : State) : (setMoreOwed more s).phase = s.phase := rfl
@[simp] theorem setMoreOwed_trace (more : Bool) (s : State) : (setMoreOwed more s).trace = s.trace := rfl
@[simp] theorem setMoreOwed_port (more : Bool) (s : State) : (setMoreOwed more s).port = s.port := rfl
@[simp] theorem setMoreOwed_reply (more : Bool) (s : State) : (setMoreOwed more s).reply = s.reply := rfl
@[simp] theorem setMoreOwed_line (more : Bool) (s : State) : (setMoreOwed more s).line = s.line := rfl
@[simp] theorem setMoreOwed_draws (more : Bool) (s : State) : (setMoreOwed more s).draws = s.draws := rfl
@[simp] theorem setMoreOwed_moreOwed (more : Bool) (s : State) : (setMoreOwed more s).moreOwed = more := rfl
@[simp] theorem setMoreOwed_params (more : Bool) (s : State) : (setMoreOwed more s).params = s.params := rfl

@[simp] theorem present_swclk (bits : List Bool) (s : State) : (present bits s).swclk = s.swclk := rfl
@[simp] theorem present_swdioDir (bits : List Bool) (s : State) : (present bits s).swdioDir = s.swdioDir := rfl
@[simp] theorem present_swdioOut (bits : List Bool) (s : State) : (present bits s).swdioOut = s.swdioOut := rfl
@[simp] theorem present_speed (bits : List Bool) (s : State) : (present bits s).speed = s.speed := rfl
@[simp] theorem present_waitRetries (bits : List Bool) (s : State) : (present bits s).waitRetries = s.waitRetries := rfl
@[simp] theorem present_connState (bits : List Bool) (s : State) : (present bits s).connState = s.connState := rfl
@[simp] theorem present_idcode (bits : List Bool) (s : State) : (present bits s).idcode = s.idcode := rfl
@[simp] theorem present_ackCount (bits : List Bool) (s : State) : (present bits s).ackCount = s.ackCount := rfl
@[simp] theorem present_txn (bits : List Bool) (s : State) : (present bits s).txn = s.txn := rfl
@[simp] theorem present_phase (bits : List Bool) (s : State) : (present bits s).phase = s.phase := rfl
@[simp] theorem present_trace (bits : List Bool) (s : State) : (present bits s).trace = s.trace := rfl
@[simp] theorem present_port (bits : List Bool) (s : State) : (present bits s).port = s.port := rfl
@[simp] theorem present_reply (bits : List Bool) (s : State) : (present bits s).reply = s.reply := rfl
@[simp] theorem present_line (bits : List Bool) (s : State) : (present bits s).line = bits ++ s.line := rfl
@[simp] theorem present_draws (bits : List Bool) (s : State) : (present bits s).draws = s.draws := rfl
@[simp] theorem present_moreOwed (bits : List Bool) (s : State) : (present bits s).moreOwed = s.moreOwed := rfl
@[simp] theorem present_params (bits : List Bool) (s : State) : (present bits s).params = s.params := rfl

@[simp] theorem setConn_swclk (c : ConnState) (s : State) : (setConn c s).swclk = s.swclk := rfl
@[simp] theorem setConn_swdioDir (c : ConnState) (s : State) : (setConn c s).swdioDir = s.swdioDir := rfl
@[simp] theorem setConn_swdioOut (c : ConnState) (s : State) : (setConn c s).swdioOut = s.swdioOut := rfl
@[simp] theorem setConn_speed (c : ConnState) (s : State) : (setConn c s).speed = s.speed := rfl
@[simp] theorem setConn_waitRetries (c : ConnState) (s : State) : (setConn c s).waitRetries = s.waitRetries := rfl
@[simp] theorem setConn_connState (c : ConnState) (s : State) : (setConn c s).connState = c := rfl
@[simp] theorem setConn_idcode (c : ConnState) (s : State) : (setConn c s).idcode = s.idcode := rfl
@[simp] theorem setConn_ackCount (c : ConnState) (s : State) : (setConn c s).ackCount = s.ackCount := rfl
@[simp] theorem setConn_txn (c : ConnState) (s : State) : (setConn c s).txn = s.txn := rfl
@[simp] theorem setConn_phase (c : ConnState) (s : State) : (setConn c s).phase = s.phase := rfl
@[simp] theorem setConn_trace (c : ConnState) (s : State) : (setConn c s).trace = s.trace := rfl
@[simp] theorem setConn_port (c : ConnState) (s : State) : (setConn c s).port = s.port := rfl
@[simp] theorem setConn_reply (c : ConnState) (s : State) : (setConn c s).reply = s.reply := rfl
@[simp] theorem setConn_line (c : ConnState) (s : State) : (setConn c s).line = s.line := rfl
@[simp] theorem setConn_draws (c : ConnState) (s : State) : (setConn c s).draws = s.draws := rfl
@[simp] theorem setConn_moreOwed (c : ConnState) (s : State) : (setConn c s).moreOwed = s.moreOwed := rfl
@[simp] theorem setConn_params (c : ConnState) (s : State) : (setConn c s).params = s.params := rfl

@[simp] theorem beginConnect_swclk (s : State) : (beginConnect s).swclk = s.swclk := rfl
@[simp] theorem beginConnect_swdioDir (s : State) : (beginConnect s).swdioDir = s.swdioDir := rfl
@[simp] theorem beginConnect_swdioOut (s : State) : (beginConnect s).swdioOut = s.swdioOut := rfl
@[simp] theorem beginConnect_speed (s : State) : (beginConnect s).speed = s.speed := rfl
@[simp] theorem beginConnect_waitRetries (s : State) : (beginConnect s).waitRetries = s.waitRetries := rfl
@[simp] theorem beginConnect_connState (s : State) : (beginConnect s).connState = .resetting := rfl
@[simp] theorem beginConnect_idcode (s : State) : (beginConnect s).idcode = none := rfl
@[simp] theorem beginConnect_ackCount (s : State) : (beginConnect s).ackCount = s.ackCount := rfl
@[simp] theorem beginConnect_txn (s : State) : (beginConnect s).txn = s.txn := rfl
@[simp] theorem beginConnect_phase (s : State) : (beginConnect s).phase = s.phase := rfl
@[simp] theorem beginConnect_trace (s : State) : (beginConnect s).trace = s.trace := rfl
@[simp] theorem beginConnect_port (s : State) : (beginConnect s).port = s.port := rfl
@[simp] theorem beginConnect_reply (s : State) : (beginConnect s).reply = s.reply := rfl
@[simp] theorem beginConnect_line (s : State) : (beginConnect s).line = s.line := rfl
@[simp] theorem beginConnect_draws (s : State) : (beginConnect s).draws = s.draws := rfl
@[simp] theorem beginConnect_moreOwed (s : State) : (beginConnect s).moreOwed = s.moreOwed := rfl
@[simp] theorem beginConnect_params (s : State) : (beginConnect s).params = s.params := rfl

@[simp] theorem dropConnection_swclk (s : State) : (dropConnection s).swclk = s.swclk := rfl
@[simp] theorem dropConnection_swdioDir (s : State) : (dropConnection s).swdioDir = s.swdioDir := rfl
@[simp] theorem dropConnection_swdioOut (s : State) : (dropConnection s).swdioOut = s.swdioOut := rfl
@[simp] theorem dropConnection_speed (s : State) : (dropConnection s).speed = s.speed := rfl
@[simp] theorem dropConnection_waitRetries (s : State) : (dropConnection s).waitRetries = s.waitRetries := rfl
@[simp] theorem dropConnection_connState (s : State) : (dropConnection s).connState = .disconnected := rfl
@[simp] theorem dropConnection_idcode (s : State) : (dropConnection s).idcode = none := rfl
@[simp] theorem dropConnection_ackCount (s : State) : (dropConnection s).ackCount = s.ackCount := rfl
@[simp] theorem dropConnection_txn (s : State) : (dropConnection s).txn = s.txn := rfl
@[simp] theorem dropConnection_phase (s : State) : (dropConnection s).phase = s.phase := rfl
@[simp] theorem dropConnection_trace (s : State) : (dropConnection s).trace = s.trace := rfl
@[simp] theorem dropConnection_port (s : State) : (dropConnection s).port = s.port := rfl
@[simp] theorem dropConnection_reply (s : State) : (dropConnection s).reply = s.reply := rfl
@[simp] theorem dropConnection_line (s : State) : (dropConnection s).line = s.line := rfl
@[simp] theorem dropConnection_draws (s : State) : (dropConnection s).draws = s.draws := rfl
@[simp] theorem dropConnection_moreOwed (s : State) : (dropConnection s).moreOwed = s.moreOwed := rfl
@[simp] theorem dropConnection_params (s : State) : (dropConnection s).params = s.params := rfl

@[simp] theorem issueFirst_swclk (k : Packet) (s : State) : (issueFirst k s).swclk = s.swclk := rfl
@[simp] theorem issueFirst_swdioDir (k : Packet) (s : State) : (issueFirst k s).swdioDir = s.swdioDir := rfl
@[simp] theorem issueFirst_swdioOut (k : Packet) (s : State) : (issueFirst k s).swdioOut = s.swdioOut := rfl
@[simp] theorem issueFirst_speed (k : Packet) (s : State) : (issueFirst k s).speed = s.speed := rfl
@[simp] theorem issueFirst_waitRetries (k : Packet) (s : State) : (issueFirst k s).waitRetries = s.waitRetries := rfl
@[simp] theorem issueFirst_connState (k : Packet) (s : State) : (issueFirst k s).connState = s.connState := rfl
@[simp] theorem issueFirst_idcode (k : Packet) (s : State) : (issueFirst k s).idcode = s.idcode := rfl
@[simp] theorem issueFirst_ackCount (k : Packet) (s : State) : (issueFirst k s).ackCount = s.ackCount := rfl
@[simp] theorem issueFirst_txn (k : Packet) (s : State) : (issueFirst k s).txn = s.txn := rfl
@[simp] theorem issueFirst_phase (k : Packet) (s : State) : (issueFirst k s).phase = s.phase := rfl
@[simp] theorem issueFirst_trace (k : Packet) (s : State) : (issueFirst k s).trace = s.trace := rfl
@[simp] theorem issueFirst_port (k : Packet) (s : State) : (issueFirst k s).port = k :: s.port := rfl
@[simp] theorem issueFirst_reply (k : Packet) (s : State) : (issueFirst k s).reply = s.reply := rfl
@[simp] theorem issueFirst_line (k : Packet) (s : State) : (issueFirst k s).line = s.line := rfl
@[simp] theorem issueFirst_draws (k : Packet) (s : State) : (issueFirst k s).draws = s.draws := rfl
@[simp] theorem issueFirst_moreOwed (k : Packet) (s : State) : (issueFirst k s).moreOwed = s.moreOwed := rfl
@[simp] theorem issueFirst_params (k : Packet) (s : State) : (issueFirst k s).params = s.params := rfl

end Sys2Proof.Machine
end

