-- ==== Sys2Proof/Laws/Wire.lean ====
section
/-! SUPPORT. What the pin actions, cycles and shifts do to the state, each as one record update; what the sampled bits are when
the target presents them; LSB-first bits and parity. -/

namespace Sys2Proof.Machine

/-! ### Bits -/

@[simp] theorem lsbFirst_length {w : Nat} (v : BitVec w) (n : Nat) : (lsbFirst v n).length = n := by
  simp [lsbFirst]

theorem lsbFirst_getElem {w : Nat} (v : BitVec w) (n i : Nat) (h : i < (lsbFirst v n).length) :
    (lsbFirst v n)[i] = v.getLsbD i := by
  simp [lsbFirst]

theorem lsbFirst_succ {w : Nat} (v : BitVec w) (n : Nat) :
    lsbFirst v (n + 1) = v.getLsbD 0 :: lsbFirst (v >>> 1) n := by
  simp only [lsbFirst, List.range_succ_eq_map, List.map_cons, List.map_map]
  congr 1
  apply List.map_congr_left
  intro i _
  simp [Nat.add_comm]

theorem natOfBits_testBit (bs : List Bool) (i : Nat) : (natOfBits bs).testBit i = bs.getD i false := by
  induction bs generalizing i with
  | nil => simp [natOfBits]
  | cons b bs ih =>
    cases i with
    | zero => cases b <;> simp [natOfBits, Nat.add_mod]
    | succ i =>
      have hdiv : (b.toNat + 2 * natOfBits bs) / 2 = natOfBits bs := by
        have := b.toNat_lt; omega
      simp [natOfBits, Nat.testBit_succ, hdiv, ih]

theorem natOfBits_lt (bs : List Bool) : natOfBits bs < 2 ^ bs.length := by
  induction bs with
  | nil => simp [natOfBits]
  | cons b bs ih =>
    have := b.toNat_lt
    simp only [natOfBits, List.length_cons, Nat.pow_succ]
    omega

theorem ofBits_getLsbD (w : Nat) (bs : List Bool) (i : Nat) :
    (ofBits w bs).getLsbD i = (decide (i < w) && bs.getD i false) := by
  simp [ofBits, natOfBits_testBit, BitVec.getLsbD_ofNat]

/-- Shifting a value's bits in gives the value back (R20, R45). -/
@[simp] theorem ofBits_lsbFirst {w : Nat} (v : BitVec w) : ofBits w (lsbFirst v w) = v := by
  apply BitVec.eq_of_getLsbD_eq
  intro i hi
  rw [ofBits_getLsbD]
  simp [hi, lsbFirst]

theorem parity_append (as bs : List Bool) : parity (as ++ bs) = xor (parity as) (parity bs) := by
  induction as with
  | nil => simp [parity]
  | cons a as ih =>
    simp only [parity, List.cons_append, List.foldr_cons] at *
    simp [ih]

@[simp] theorem dataBits_length (v : Word) (p : Bool) : (dataBits v p).length = 33 := by
  simp [dataBits]

/-! ### Host-driven cycles -/

/-- One pulse: one unsampled cycle, SWCLK low afterwards (R93). -/
theorem pulse_eq (s : State) : pulse s = { s with trace := s.trace ++ [⟨holdOf s, none⟩], swclk := false } := rfl

/-- `n` pulses: `n` unsampled cycles with the one hold of the line (R99). -/
theorem pulses_eq (n : Nat) (s : State) :
    pulses n s =
      { s with trace := s.trace ++ List.replicate n ⟨holdOf s, none⟩, swclk := if n = 0 then s.swclk else false } := by
  induction n generalizing s with
  | zero => simp [pulses]
  | succ n ih =>
    rw [pulses, ih, pulse_eq]
    have hh : holdOf { s with trace := s.trace ++ [⟨holdOf s, none⟩], swclk := false } = holdOf s := rfl
    simp [hh, List.replicate_succ]

@[simp] theorem holdOf_drive (b : Bool) (s : State) : holdOf (drive b s) = if b then .h else .l := rfl

@[simp] theorem holdOf_release (s : State) : holdOf (release s) = .z := rfl

theorem writeBit_eq (s : State) (b : Bool) :
    writeBit s b =
      { s with swdioDir := .out, swdioOut := b, trace := s.trace ++ [hostCycle b], swclk := false } := rfl

/-- Host-driven bits: one cycle each, SWDIO left driven at the last (R94, R96); nothing at all for no bits. -/
theorem writeBits_eq (bs : List Bool) (s : State) :
    writeBits bs s =
      if bs = [] then s
      else { s with swdioDir := .out, swdioOut := bs.getLastD false,
                    trace := s.trace ++ bs.map hostCycle, swclk := false } := by
  induction bs generalizing s with
  | nil => rfl
  | cons b bs ih =>
    show writeBits bs (writeBit s b) = _
    rw [ih, writeBit_eq]
    cases bs with
    | nil => simp
    | cons c cs => simp [List.getLastD]

/-- `shift_out` of at least one bit (R96). -/
theorem shiftOut_eq (v : Word) (n : Nat) (s : State) :
    shiftOut v (n + 1) s =
      { s with swdioDir := .out, swdioOut := v.getLsbD n, trace := s.trace ++ shiftRun v (n + 1), swclk := false } := by
  have hne : lsbFirst v (n + 1) ≠ [] := by
    intro h; have := congrArg List.length h; simp at this
  have hl : (lsbFirst v (n + 1)).getLastD false = v.getLsbD n := by
    simp [lsbFirst, List.range_succ]
  rw [shiftOut, writeBits_eq, if_neg hne, hl, shiftRun]

@[simp] theorem shiftOut_zero (v : Word) (s : State) : shiftOut v 0 s = s := rfl

/-- `clock_idle`: the line state of the level, then `n` cycles with it (R98). -/
theorem clockIdle_eq (n : Nat) (l : Level) (s : State) :
    clockIdle n l s =
      { setLevel l s with trace := s.trace ++ List.replicate n (levelCycle l),
                          swclk := if n = 0 then s.swclk else false } := by
  cases l <;> simp [clockIdle, pulses_eq, setLevel, levelCycle, hostCycle, releasedCycle, drive, release, holdOf]

/-- `turnaround_release`: one released cycle, SWDIO released (R104). -/
theorem turnaroundRelease_eq (s : State) :
    turnaroundRelease s = { s with swdioDir := .inp, trace := s.trace ++ [releasedCycle], swclk := false } := rfl

/-- `turnaround_retake` from a released line: one released cycle, then SWDIO driven low (R105). -/
theorem turnaroundRetake_eq (s : State) (h : s.swdioDir = .inp) :
    turnaroundRetake s =
      { s with swdioDir := .out, swdioOut := false, trace := s.trace ++ [releasedCycle], swclk := false } := by
  have hh : holdOf s = .z := by simp [holdOf, h]
  simp [turnaroundRetake, Config.turnaroundCycles, pulses, pulse_eq, drive, hh, releasedCycle]

/-! ### Sampled cycles -/

@[simp] theorem sampledBits_length (n : Nat) (s : State) : (sampledBits n s).length = n := by
  induction n generalizing s with
  | zero => rfl
  | succ n ih => simp [sampledBits, ih]

theorem sampleCycle_eq (s : State) :
    sampleCycle s =
      { s with line := s.line.tail, draws := s.draws + 1, trace := s.trace ++ [sampledCycle (nextBit s)],
               swclk := false } := rfl

/-- `n` sampled cycles: the trace takes the sampled bits, the environment's bits are used up (R97, R99). -/
theorem sampleCycles_eq (n : Nat) (s : State) :
    sampleCycles n s =
      { s with line := s.line.drop n, draws := s.draws + n,
               trace := s.trace ++ (sampledBits n s).map sampledCycle,
               swclk := if n = 0 then s.swclk else false } := by
  induction n generalizing s with
  | zero => simp [sampleCycles, sampledBits]
  | succ n ih =>
    rw [sampleCycles, ih, sampleCycle_eq]
    simp [sampledBits, sampleCycle_eq, Nat.add_comm, Nat.add_left_comm]

/-- Samples depend on the environment's bits and on nothing else of the state (R44). -/
theorem sampledBits_congr (n : Nat) (s s' : State) (hl : s.line = s'.line) (hd : s.draws = s'.draws) :
    sampledBits n s = sampledBits n s' := by
  induction n generalizing s s' with
  | zero => rfl
  | succ n ih =>
    have hb : nextBit s = nextBit s' := by simp [nextBit, hl, hd]
    rw [sampledBits, sampledBits, hb, ih (sampleCycle s) (sampleCycle s')]
    · simp [sampleCycle_eq, hl]
    · simp [sampleCycle_eq, hd]

/-- What the target presents is what is sampled (R44). -/
theorem sampledBits_of_line (bs rest : List Bool) (s : State) (h : s.line = bs ++ rest) :
    sampledBits bs.length s = bs := by
  induction bs generalizing s with
  | nil => rfl
  | cons b bs ih =>
    have hb : nextBit s = b := by simp [nextBit, h]
    rw [List.length_cons, sampledBits, hb, ih]
    simp [sampleCycle_eq, h]

/-- Sampling on: the bits of `m + n` cycles are those of `m` and then those of `n`. -/
theorem sampledBits_add (m n : Nat) (s : State) :
    sampledBits (m + n) s = sampledBits m s ++ sampledBits n (sampleCycles m s) := by
  induction m generalizing s with
  | zero => simp [sampledBits, sampleCycles]
  | succ m ih => rw [Nat.succ_add, sampledBits, ih]; simp [sampledBits, sampleCycles]

end Sys2Proof.Machine
end

