-- ==== Sys2Proof/Laws/Transaction.lean ====
section
/-! SUPPORT. What one attempt, the retry loop and the whole transaction do to the state: first for every sequence of draws, then
for a target whose bits are given. -/

namespace Sys2Proof.Machine

/-! ### The state in the middle of a transaction -/

/-- `s` after `cs` cycles, `n` samples and `a` ACK phases, the line taken back at level `b`; the phase and the transaction
registers are given up at the end of the command. -/
def after (s : State) (cs : List Cycle) (n a : Nat) (b : Bool) (ph : Phase) (tx : Option Txn) : State :=
  { s with trace := s.trace ++ cs, line := s.line.drop n, draws := s.draws + n, ackCount := s.ackCount + a,
           swdioDir := .out, swdioOut := b, swclk := false, phase := ph, txn := tx }

theorem after_after (s : State) (cs cs' : List Cycle) (n n' a a' : Nat) (b b' : Bool) (ph ph' : Phase)
    (tx tx' : Option Txn) :
    after (after s cs n a b ph tx) cs' n' a' b' ph' tx' = after s (cs ++ cs') (n + n') (a + a') b' ph' tx' := by
  simp [after, Nat.add_assoc]

theorem after_loadTxn (t : Txn) (s : State) (cs : List Cycle) (n a : Nat) (b : Bool) (ph : Phase) (tx : Option Txn) :
    after (loadTxn t s) cs n a b ph tx = after s cs n a b ph tx := rfl

/-! ### One attempt -/

theorem lsbFirst_setWidth (v : BitVec 8) : lsbFirst (v.setWidth 32) 8 = lsbFirst v 8 := by
  simp only [lsbFirst]
  apply List.map_congr_left
  intro i hi
  have : i < 8 := List.mem_range.mp hi
  simp [BitVec.getLsbD_setWidth]
  omega

/-- Request and first turnaround (R124, R125). -/
theorem requestPhase_eq (t : Txn) (s : State) :
    ∃ o tx, requestPhase t s =
      { s with swdioDir := .inp, swdioOut := o, swclk := false, phase := .trnRelease, txn := tx,
               trace := s.trace ++ ((lsbFirst t.opByte 8).map hostCycle ++ [releasedCycle]) } := by
  refine ⟨(t.opByte.setWidth 32).getLsbD 7, s.txn.map (fun t => { t with ack := none, rdata := none, rpar := none }), ?_⟩
  rw [requestPhase, turnaroundRelease_eq, shiftOut_eq, shiftRun, lsbFirst_setWidth]
  simp [enter, startAttempt, updateTxn]

/-- The acknowledge of an attempt that starts in `s`. -/
def ackOf (s : State) : BitVec 3 := ofBits 3 (sampledBits 3 s)

/-- The word of the DATA-IN phase of an attempt that starts in `s`. -/
def readWordOf (s : State) : Word := ofBits 32 (sampledBits 32 (sampleCycles 3 s))

/-- The parity bit of the DATA-IN phase of an attempt that starts in `s`. -/
def readParityOf (s : State) : Bool := nextBit (sampleCycles 35 s)

/-- The result of an attempt that starts in `s` (R127 to R134). -/
def resultOf (t : Txn) (s : State) : AttemptResult :=
  match decodeAck s.params (ackOf s), t.access with
  | .ok, .read => if parityHolds (readWordOf s) (readParityOf s) then .okRead (readWordOf s) else .parityBad
  | .ok, .write _ => .okWrite
  | .wait, _ => .wait
  | .fault, _ => .fault
  | .protocol, _ => .protocol (ackOf s)

/-- How many bits an attempt that starts in `s` samples. -/
def samplesOf (t : Txn) (s : State) : Nat :=
  match decodeAck s.params (ackOf s), t.access with
  | .ok, .read => 36
  | _, _ => 3

/-- OP TRN ACK of an attempt that starts in `s`. -/
def openingOf (t : Txn) (s : State) : List Cycle :=
  (lsbFirst t.opByte 8).map hostCycle ++ releasedCycle :: (sampledBits 3 s).map sampledCycle

/-- The cycles of an attempt that starts in `s` (R135). -/
def cyclesOf (t : Txn) (s : State) : List Cycle :=
  openingOf t s ++
    match decodeAck s.params (ackOf s), t.access with
    | .ok, .read => (sampledBits 33 (sampleCycles 3 s)).map sampledCycle ++ [releasedCycle]
    | .ok, .write data => releasedCycle :: (dataBits data (par32 data)).map hostCycle
    | _, _ => [releasedCycle]

/-- The state after OP TRN ACK. -/
def acknowledged (t : Txn) (s : State) (o : Bool) (tx : Option Txn) : State :=
  { s with swdioDir := .inp, swdioOut := o, swclk := false, phase := .ack, txn := tx,
           trace := s.trace ++ openingOf t s, line := s.line.drop 3, draws := s.draws + 3,
           ackCount := s.ackCount + 1 }

theorem ackPhase_requestPhase (t : Txn) (s : State) :
    ∃ o tx, ackPhase (requestPhase t s) = acknowledged t s o tx ∧ ackValue (requestPhase t s) = ackOf s := by
  obtain ⟨o, tx, h⟩ := requestPhase_eq t s
  have hb : sampledBits 3 (requestPhase t s) = sampledBits 3 s := sampledBits_congr 3 _ _ (by rw [h]) (by rw [h])
  have he : sampledBits 3 (enter .ack (requestPhase t s)) = sampledBits 3 s :=
    sampledBits_congr 3 _ _ (by rw [h]; rfl) (by rw [h]; rfl)
  refine ⟨o, tx.map (fun t => { t with ack := some (ackOf s), tries := t.tries + 1 }), ?_, by rw [ackValue, hb, ackOf]⟩
  rw [ackPhase, shiftIn, sampleCycles_eq, he, ackValue, hb, h]
  simp [enter, noteAck, updateTxn, openingOf, acknowledged, ackOf]

theorem retakePhase_eq (s : State) (h : s.swdioDir = .inp) :
    retakePhase s = { s with swdioDir := .out, swdioOut := false, swclk := false, phase := .trnRetake,
                             trace := s.trace ++ [releasedCycle] } := by
  rw [retakePhase, turnaroundRetake_eq _ (by simpa using h)]; rfl

/-- 33 sampled cycles (R72, R128). -/
theorem dataInPhase_eq (s : State) :
    ∃ tx, dataInPhase s =
      { s with swclk := false, phase := .dataIn, txn := tx, line := s.line.drop 33, draws := s.draws + 33,
               trace := s.trace ++ (sampledBits 33 s).map sampledCycle } := by
  have he : sampledBits 32 (enter .dataIn s) = sampledBits 32 s := sampledBits_congr 32 _ _ rfl rfl
  have h1 : sampledBits 1 (sampleCycles 32 (enter .dataIn s)) = sampledBits 1 (sampleCycles 32 s) :=
    sampledBits_congr 1 _ _ (by simp [sampleCycles_eq]) (by simp [sampleCycles_eq])
  have h33 : sampledBits 33 s = sampledBits 32 s ++ sampledBits 1 (sampleCycles 32 s) := sampledBits_add 32 1 s
  refine ⟨s.txn.map (fun t => { t with rdata := some (dataInWord s), rpar := some (dataInParity s) }), ?_⟩
  rw [dataInPhase, shiftIn, shiftIn, sampleCycles_eq 1, h1, sampleCycles_eq 32 (enter _ _), he, h33]
  simp [enter, updateTxn, Nat.add_assoc]

theorem lsbFirst_one (b : Bool) : lsbFirst ((BitVec.ofBool b).setWidth 32) 1 = [b] := by
  cases b <;> decide

/-- 33 host-driven cycles: the data and its parity bit (R66, R72). -/
theorem shiftOutData_eq (data : Word) (s : State) :
    shiftOutData data s =
      { s with swdioDir := .out, swdioOut := par32 data, swclk := false,
               trace := s.trace ++ (dataBits data (par32 data)).map hostCycle } := by
  have hlast : ((BitVec.ofBool (par32 data)).setWidth 32).getLsbD 0 = par32 data := by
    cases par32 data <;> decide
  rw [shiftOutData, shiftOut_eq, shiftOut_eq, hlast, shiftRun, shiftRun, lsbFirst_one]
  simp [dataBits]

/-- The attempt, whole, for every sequence of draws (R135). -/
theorem attempt_eq (t : Txn) (s : State) :
    ∃ b ph tx, attempt t s = (resultOf t s, after s (cyclesOf t s) (samplesOf t s) 1 b ph tx) ∧
      (resultOf t s = .okWrite ∨ b = false) := by
  obtain ⟨o, tx, hs, ha⟩ := ackPhase_requestPhase t s
  rw [attempt, ha, hs]
  unfold dispatch resultOf cyclesOf samplesOf
  have h32 : sampledBits 32 (acknowledged t s o tx) = sampledBits 32 (sampleCycles 3 s) :=
    sampledBits_congr 32 _ _ (by simp [acknowledged, sampleCycles_eq]) (by simp [acknowledged, sampleCycles_eq])
  have h33 : sampledBits 33 (acknowledged t s o tx) = sampledBits 33 (sampleCycles 3 s) :=
    sampledBits_congr 33 _ _ (by simp [acknowledged, sampleCycles_eq]) (by simp [acknowledged, sampleCycles_eq])
  have hpar : (acknowledged t s o tx).params = s.params := rfl
  have hdir : (acknowledged t s o tx).swdioDir = .inp := rfl
  rw [hpar]
  cases hd : decodeAck s.params (ackOf s) <;> cases hacc : t.access
  case ok.read =>
    obtain ⟨tx', hi⟩ := dataInPhase_eq (acknowledged t s o tx)
    have hw : dataInWord (acknowledged t s o tx) = readWordOf s := by
      rw [dataInWord, shiftInValue, h32, readWordOf]
    have hp : dataInParity (acknowledged t s o tx) = readParityOf s := by
      simp [dataInParity, readParityOf, nextBit, shiftIn, sampleCycles_eq, acknowledged]
    refine ⟨false, .trnRetake, tx', ?_, Or.inr rfl⟩
    simp only
    rw [retakePhase_eq _ (by rw [hi]; exact hdir), hi, dataInResult, hw, hp, h33]
    simp [after, acknowledged, Nat.add_assoc]
  case ok.write data =>
    refine ⟨par32 data, .dataOut, tx, ?_, Or.inl rfl⟩
    simp only
    rw [shiftOutData_eq, retakePhase_eq _ hdir]
    simp [after, enter, acknowledged]
  all_goals
    refine ⟨false, .trnRetake, tx, ?_, Or.inr rfl⟩
    simp only
    rw [retakePhase_eq _ hdir]
    simp [after, acknowledged]

/-! ### The retry loop -/

/-- What the retry loop leaves, for every sequence of draws: at least one attempt and at most one more than the retries; the
line low but after a write that sent its data; WAIT only when the retries are used up (R137). -/
theorem attempts_spec (t : Txn) (n : Nat) (s : State) :
    ∃ r cs m a b ph tx, attempts t n s = (r, after s cs m a b ph tx) ∧ (r = .okWrite ∨ b = false) ∧
      1 ≤ a ∧ a ≤ n + 1 ∧ (r = .wait → a = n + 1) ∧ (∀ c ∈ cs, c.sample = none ∨ c.hold = .z) ∧
      cs.length ≤ 13 * (a - 1) + 46 ∧ 13 * a ≤ cs.length ∧
      ((∃ d, t.access = .write d) → r ≠ .parityBad ∧ ∀ v, r ≠ .okRead v) ∧ (t.access = .read → r ≠ .okWrite) := by
  have hz : ∀ s : State, ∀ c ∈ cyclesOf t s, c.sample = none ∨ c.hold = .z := by
    intro s c hc
    simp only [cyclesOf, openingOf, List.mem_append, List.mem_cons, List.mem_map] at hc
    have hh : ∀ b, (hostCycle b).sample = none := fun _ => rfl
    have hsm : ∀ b, (sampledCycle b).hold = .z := fun _ => rfl
    have hr : releasedCycle.sample = none := rfl
    rcases hc with (⟨b, _, rfl⟩ | rfl | ⟨b, _, rfl⟩) | hc
    · exact Or.inl (hh b)
    · exact Or.inl hr
    · exact Or.inr (hsm b)
    · split at hc
      · simp only [List.mem_append, List.mem_map, List.mem_singleton] at hc
        rcases hc with ⟨b, _, rfl⟩ | rfl
        · exact Or.inr (hsm b)
        · exact Or.inl hr
      · simp only [List.mem_cons, List.mem_map] at hc
        rcases hc with rfl | ⟨b, _, rfl⟩
        · exact Or.inl hr
        · exact Or.inl (hh b)
      · simp only [List.mem_singleton] at hc
        exact Or.inl (hc ▸ hr)
  have hlen : ∀ s : State, 13 ≤ (cyclesOf t s).length ∧ (cyclesOf t s).length ≤ 46 ∧
      (resultOf t s = .wait → (cyclesOf t s).length = 13) := by
    intro s
    simp only [cyclesOf, openingOf, resultOf]
    cases decodeAck s.params (ackOf s) <;> cases t.access <;> simp
    split <;> simp
  have hacc : ∀ s : State, ((∃ d, t.access = .write d) → resultOf t s ≠ .parityBad ∧ ∀ v, resultOf t s ≠ .okRead v) ∧
      (t.access = .read → resultOf t s ≠ .okWrite) := by
    intro s
    simp only [resultOf]
    cases decodeAck s.params (ackOf s) <;> cases t.access <;> simp
    split <;> simp
  induction n generalizing s with
  | zero =>
    obtain ⟨b, ph, tx, h, hb⟩ := attempt_eq t s
    obtain ⟨hl1, hl2, _⟩ := hlen s
    exact ⟨_, _, _, 1, b, ph, tx, h, hb, le_refl _, le_refl _, fun _ => rfl, hz s, by omega, by omega, hacc s⟩
  | succ n ih =>
    obtain ⟨b, ph, tx, h, hb⟩ := attempt_eq t s
    obtain ⟨hl1, hl2, hl3⟩ := hlen s
    by_cases hw : resultOf t s = .wait
    · obtain ⟨r, cs, m, a, b', ph', tx', h', hb', ha1, ha2, ha3, hcs, hc1, hc2, hrest⟩ :=
        ih (after s (cyclesOf t s) (samplesOf t s) 1 b ph tx)
      refine ⟨r, cyclesOf t s ++ cs, samplesOf t s + m, 1 + a, b', ph', tx', ?_, hb', by omega, by omega,
        fun hr => by have := ha3 hr; omega, ?_, ?_, ?_, hrest⟩
      · rw [attempts, h, hw]
        simp only [h', after_after]
      · intro c hc
        rcases List.mem_append.mp hc with hc | hc
        · exact hz s c hc
        · exact hcs c hc
      · simp only [List.length_append, hl3 hw]; omega
      · simp only [List.length_append, hl3 hw]; omega
    · refine ⟨resultOf t s, cyclesOf t s, samplesOf t s, 1, b, ph, tx, ?_, hb, le_refl _, by omega,
        fun hr => absurd hr hw, hz s, by omega, by omega, hacc s⟩
      rw [attempts, h]
      cases hr : resultOf t s <;> simp_all

/-! ### The transaction -/

/-- `s` at the end of a transaction: the line at rest, no register held (R143, R149). -/
def settled (s : State) (cs : List Cycle) (n a : Nat) (c : ConnState) : State :=
  { s with trace := s.trace ++ cs, line := s.line.drop n, draws := s.draws + n, ackCount := s.ackCount + a,
           swdioDir := .out, swdioOut := false, swclk := false, phase := .idle, txn := none, connState := c }

/-- What `NoteOutcome` makes of the connection state (R190). -/
def outcomeState (r : AttemptResult) (c : ConnState) : ConnState :=
  match r with
  | .fault => faultedFrom c
  | .protocol _ => faultedFrom c
  | _ => c

theorem noteOutcome_eq (r : AttemptResult) (s : State) :
    noteOutcome r s = { s with connState := outcomeState r s.connState } := by
  unfold noteOutcome outcomeState faultedFrom
  cases hc : s.connState <;> cases r <;> simp [setConn, ← hc]

/-- The cycles of the trailing idle (R140 to R142). -/
def trailOf (p : Params) (t : Txn) (r : AttemptResult) : List Cycle :=
  if t.more then (match r with | .okWrite => idleRun p.writeTrailCycles | _ => []) else idleRun p.idleCycles

theorem finishTxn_after (t : Txn) (r : AttemptResult) (s : State) (cs : List Cycle) (n a : Nat) (b : Bool) (ph : Phase)
    (tx : Option Txn) (hb : r = .okWrite ∨ b = false) :
    finishTxn t r (after s cs n a b ph tx) =
      settled s (cs ++ trailOf s.params t r) n a (outcomeState r s.connState) := by
  rw [finishTxn, noteOutcome_eq]
  unfold trail trailOf
  by_cases hm : t.more = true
  · simp only [hm, if_true]
    cases r
    case okWrite => simp [clockIdle_eq, setLevel, drive, enter, after, settled, endTxn, levelCycle, idleRun]
    all_goals
      have hb' : b = false := by simpa using hb
      simp [after, settled, endTxn, hb']
  · simp [hm, clockIdle_eq, setLevel, drive, enter, after, settled, endTxn, levelCycle, idleRun]

/-- The whole transaction from the retry loop's result (R143). -/
theorem transact_of_attempts (t : Txn) (s : State) (r : AttemptResult) (cs : List Cycle) (n a : Nat) (b : Bool)
    (ph : Phase) (tx : Option Txn)
    (h : attempts t s.waitRetries (loadTxn t s) = (r, after (loadTxn t s) cs n a b ph tx))
    (hb : r = .okWrite ∨ b = false) :
    transact t s = (replyOf r, settled s (cs ++ trailOf s.params t r) n a (outcomeState r s.connState)) := by
  rw [transact, h]
  simp only [after_loadTxn, finishTxn_after t r s cs n a b ph tx hb]

/-- A transaction always ends, for every sequence of draws: with the line at rest, with between 1 and `wait_retries + 1` ACK
phases counted, and with the connection state moved only by its outcome (R137, R143, R149, R190). -/
theorem transact_spec (t : Txn) (s : State) :
    ∃ r cs n a, transact t s = (replyOf r, settled s (cs ++ trailOf s.params t r) n a (outcomeState r s.connState)) ∧
      1 ≤ a ∧ a ≤ s.waitRetries + 1 ∧ (r = .wait → a = s.waitRetries + 1) ∧
      (∀ c ∈ cs, c.sample = none ∨ c.hold = .z) ∧ cs.length ≤ 13 * (a - 1) + 46 ∧ 13 * a ≤ cs.length ∧
      ((∃ d, t.access = .write d) → r ≠ .parityBad ∧ ∀ v, r ≠ .okRead v) ∧ (t.access = .read → r ≠ .okWrite) := by
  obtain ⟨r, cs, m, a, b, ph, tx, h, hb, ha1, ha2, ha3, hcs, hl1, hl2, hr1, hr2⟩ :=
    attempts_spec t s.waitRetries (loadTxn t s)
  exact ⟨r, cs, m, a, transact_of_attempts t s r cs m a b ph tx h hb, ha1, ha2, ha3, hcs, hl1, hl2, hr1, hr2⟩

/-- The trailing idle samples nothing. -/
theorem trailOf_unsampled (p : Params) (t : Txn) (r : AttemptResult) :
    ∀ c ∈ trailOf p t r, c.sample = none := by
  intro c hc
  unfold trailOf at hc
  split at hc
  · split at hc
    · simp only [idleRun, List.mem_replicate] at hc; rw [hc.2]; rfl
    · simp at hc
  · simp only [idleRun, List.mem_replicate] at hc; rw [hc.2]; rfl

/-! ### A target whose bits are given -/

/-- The state an attempt starts in after the target's first bits are used up. -/
theorem sampledBits_after (n : Nat) (s : State) (cs : List Cycle) (m a : Nat) (b : Bool) (ph : Phase) (tx : Option Txn) :
    sampledBits n (after s cs m a b ph tx) = sampledBits n (sampleCycles m s) :=
  sampledBits_congr n _ _ (by simp [after, sampleCycles_eq]) (by simp [after, sampleCycles_eq])

theorem sampledBits_line (n : Nat) (bs rest : List Bool) (s : State) (h : s.line = bs ++ rest) (hn : bs.length = n) :
    sampledBits n s = bs := hn ▸ sampledBits_of_line bs rest s h

theorem ackOf_line (s : State) (a : BitVec 3) (rest : List Bool) (h : s.line = lsbFirst a 3 ++ rest) : ackOf s = a := by
  rw [ackOf, sampledBits_line 3 _ rest s h (by simp), ofBits_lsbFirst]

theorem openingOf_line (t : Txn) (s : State) (a : BitVec 3) (rest : List Bool) (h : s.line = lsbFirst a 3 ++ rest) :
    openingOf t s = (lsbFirst t.opByte 8).map hostCycle ++ releasedCycle :: (lsbFirst a 3).map sampledCycle := by
  rw [openingOf, sampledBits_line 3 _ rest s h (by simp)]

/-- `k` WAIT answers within the bound: `k` short attempts, then the loop goes on with `k` retries fewer (R137). -/
theorem attempts_waits (t : Txn) (k n : Nat) (s : State) (rest : List Bool)
    (hk : k ≤ n) (hcode : decodeAck s.params s.params.ackWait = .wait)
    (h : s.line = waitBits s.params k ++ rest) :
    ∃ b ph tx, attempts t n s =
      attempts t (n - k)
        (if k = 0 then s else
          after s (List.replicate k ((lsbFirst t.opByte 8).map hostCycle ++
            (releasedCycle :: (lsbFirst s.params.ackWait 3).map sampledCycle) ++ [releasedCycle])).flatten
            (3 * k) k b ph tx) := by
  induction k generalizing n s with
  | zero => exact ⟨false, .idle, none, by simp⟩
  | succ k ih =>
    obtain ⟨n, rfl⟩ : ∃ m, n = m + 1 := ⟨n - 1, by omega⟩
    have hl : s.line = lsbFirst s.params.ackWait 3 ++ (waitBits s.params k ++ rest) := by
      rw [h]; simp [waitBits, List.replicate_succ]
    obtain ⟨b, ph, tx, ha, -⟩ := attempt_eq t s
    have hack : ackOf s = s.params.ackWait := ackOf_line s _ _ hl
    have hr : resultOf t s = .wait := by simp [resultOf, hack, hcode]
    have hm : samplesOf t s = 3 := by simp [samplesOf, hack, hcode]
    have hc : cyclesOf t s = (lsbFirst t.opByte 8).map hostCycle ++
        (releasedCycle :: (lsbFirst s.params.ackWait 3).map sampledCycle) ++ [releasedCycle] := by
      simp [cyclesOf, hack, hcode, openingOf_line t s _ _ hl]
    obtain ⟨b', ph', tx', h'⟩ := ih n (after s (cyclesOf t s) 3 1 b ph tx) (by omega) hcode (by
      show s.line.drop 3 = waitBits s.params k ++ rest
      rw [hl, List.drop_left' (by simp)])
    rw [attempts, ha, hr, hm]
    simp only [h', Nat.succ_sub_succ]
    by_cases hk0 : k = 0
    · subst hk0
      exact ⟨b, ph, tx, by simp [hc]⟩
    · refine ⟨b', ph', tx', ?_⟩
      simp only [hk0, if_false, Nat.succ_ne_zero, after_after, hc]
      have e1 : 3 + 3 * k = 3 * (k + 1) := by omega
      have e2 : 1 + k = k + 1 := by omega
      simp [List.replicate_succ, after, e1, e2]

/-- The cycles of `k` attempts answered WAIT, by the operation byte. -/
def waitCycles (t : Txn) (p : Params) (k : Nat) : List Cycle :=
  (List.replicate k ((lsbFirst t.opByte 8).map hostCycle ++
    (releasedCycle :: (lsbFirst p.ackWait 3).map sampledCycle) ++ [releasedCycle])).flatten

/-- `k` WAIT answers within the bound and then an attempt with a given outcome: the retry loop ends with it (R137). -/
theorem attempts_answered (t : Txn) (k n : Nat) (s : State) (rest : List Bool) (r : AttemptResult) (cs : List Cycle)
    (m : Nat) (hk : k ≤ n) (hcode : decodeAck s.params s.params.ackWait = .wait)
    (h : s.line = waitBits s.params k ++ rest) (hr : r ≠ .wait ∨ k = n)
    (hlast : ∀ s' : State, s'.params = s.params → s'.line = rest →
      resultOf t s' = r ∧ cyclesOf t s' = cs ∧ samplesOf t s' = m) :
    ∃ b ph tx, attempts t n s = (r, after s (waitCycles t s.params k ++ cs) (3 * k + m) (k + 1) b ph tx) ∧
      (r = .okWrite ∨ b = false) := by
  obtain ⟨b, ph, tx, hw⟩ := attempts_waits t k n s rest hk hcode h
  have hone : ∀ (j : Nat) (s' : State), (r ≠ .wait ∨ j = 0) → s'.params = s.params → s'.line = rest →
      ∃ b ph tx, attempts t j s' = (r, after s' cs m 1 b ph tx) ∧ (r = .okWrite ∨ b = false) := by
    intro j s' hj hp hl
    obtain ⟨h1, h2, h3⟩ := hlast s' hp hl
    obtain ⟨b', ph', tx', ha, hb'⟩ := attempt_eq t s'
    rw [h1] at ha hb'
    rw [h2, h3] at ha
    refine ⟨b', ph', tx', ?_, hb'⟩
    cases j with
    | zero => exact ha
    | succ j =>
      have hne : r ≠ .wait := by simpa using hj
      rw [attempts, ha]
      cases r <;> first | rfl | exact absurd rfl hne
  have hj : r ≠ .wait ∨ n - k = 0 := hr.imp id (fun h => by omega)
  by_cases hk0 : k = 0
  · subst hk0
    obtain ⟨b', ph', tx', ha, hb'⟩ := hone (n - 0) s hj rfl (by simpa [waitBits] using h)
    refine ⟨b', ph', tx', ?_, hb'⟩
    rw [hw]
    simpa [waitCycles] using ha
  · rw [if_neg hk0] at hw
    have hl : (after s (waitCycles t s.params k) (3 * k) k b ph tx).line = rest := by
      show s.line.drop (3 * k) = rest
      rw [h, List.drop_left' (by simp [waitBits, Nat.mul_comm])]
    obtain ⟨b', ph', tx', ha, hb'⟩ := hone (n - k) (after s (waitCycles t s.params k) (3 * k) k b ph tx) hj rfl hl
    refine ⟨b', ph', tx', ?_, hb'⟩
    rw [hw]
    rw [after_after] at ha
    exact ha

/-- The same for the whole transaction (R143). -/
theorem transact_answered (t : Txn) (k : Nat) (s : State) (rest : List Bool) (r : AttemptResult) (cs : List Cycle)
    (m : Nat) (hk : k ≤ s.waitRetries) (hcode : decodeAck s.params s.params.ackWait = .wait)
    (h : s.line = waitBits s.params k ++ rest) (hr : r ≠ .wait ∨ k = s.waitRetries)
    (hlast : ∀ s' : State, s'.params = s.params → s'.line = rest →
      resultOf t s' = r ∧ cyclesOf t s' = cs ∧ samplesOf t s' = m) :
    transact t s = (replyOf r, settled s (waitCycles t s.params k ++ cs ++ trailOf s.params t r) (3 * k + m) (k + 1)
      (outcomeState r s.connState)) := by
  obtain ⟨b, ph, tx, ha, hb⟩ :=
    attempts_answered t k s.waitRetries (loadTxn t s) rest r cs m hk hcode h hr (fun s' hp hl => hlast s' hp hl)
  exact transact_of_attempts t s r _ _ _ b ph tx ha hb

/-! ### The last attempt, by the target's answer -/

/-- A read that is acknowledged OK (R128). -/
theorem last_read (t : Txn) (s : State) (v : Word) (p : Bool) (rest : List Bool) (hacc : t.access = .read)
    (hcode : decodeAck s.params s.params.ackOk = .ok)
    (h : s.line = lsbFirst s.params.ackOk 3 ++ (dataBits v p ++ rest)) :
    resultOf t s = (if parityHolds v p then .okRead v else .parityBad) ∧
    cyclesOf t s = (lsbFirst t.opByte 8).map hostCycle ++ (releasedCycle :: (lsbFirst s.params.ackOk 3).map sampledCycle) ++
      ((dataBits v p).map sampledCycle ++ [releasedCycle]) ∧
    samplesOf t s = 36 := by
  have hack : ackOf s = s.params.ackOk := ackOf_line s _ _ h
  have hl : (sampleCycles 3 s).line = dataBits v p ++ rest := by
    rw [sampleCycles_eq, h]
    exact List.drop_left' (by simp)
  have h32 : sampledBits 32 (sampleCycles 3 s) = lsbFirst v 32 :=
    sampledBits_line 32 _ ([p] ++ rest) _ (by rw [hl, dataBits, List.append_assoc]) (by simp)
  have h33 : sampledBits 33 (sampleCycles 3 s) = dataBits v p := sampledBits_line 33 _ rest _ hl (by simp)
  have hw : readWordOf s = v := by rw [readWordOf, h32, ofBits_lsbFirst]
  have hp : readParityOf s = p := by
    have hl35 : (sampleCycles 35 s).line = p :: rest := by
      rw [sampleCycles_eq, h, dataBits, ← List.append_assoc, ← List.append_assoc, List.append_assoc (_ ++ _) [p]]
      exact List.drop_left' (by simp)
    rw [readParityOf, nextBit, hl35]
  simp [resultOf, cyclesOf, samplesOf, hack, hcode, hacc, hw, hp, h33, openingOf_line t s _ _ h]

/-- A write that is acknowledged OK (R129). -/
theorem last_write (t : Txn) (s : State) (d : Word) (rest : List Bool) (hacc : t.access = .write d)
    (hcode : decodeAck s.params s.params.ackOk = .ok) (h : s.line = lsbFirst s.params.ackOk 3 ++ rest) :
    resultOf t s = .okWrite ∧
    cyclesOf t s = (lsbFirst t.opByte 8).map hostCycle ++ (releasedCycle :: (lsbFirst s.params.ackOk 3).map sampledCycle) ++
      (releasedCycle :: (dataBits d (par32 d)).map hostCycle) ∧
    samplesOf t s = 3 := by
  have hack : ackOf s = s.params.ackOk := ackOf_line s _ _ h
  simp [resultOf, cyclesOf, samplesOf, hack, hcode, hacc, openingOf_line t s _ _ h]

/-- An acknowledge that is not OK: no data phase (R130 to R132). -/
theorem last_short (t : Txn) (s : State) (a : BitVec 3) (rest : List Bool) (hcode : decodeAck s.params a ≠ .ok)
    (h : s.line = lsbFirst a 3 ++ rest) :
    resultOf t s = (match decodeAck s.params a with | .wait => .wait | .fault => .fault | _ => .protocol a) ∧
    cyclesOf t s = (lsbFirst t.opByte 8).map hostCycle ++ (releasedCycle :: (lsbFirst a 3).map sampledCycle) ++
      [releasedCycle] ∧
    samplesOf t s = 3 := by
  have hack : ackOf s = a := ackOf_line s _ _ h
  cases hd : decodeAck s.params a <;> simp_all [resultOf, cyclesOf, samplesOf, openingOf_line t s _ _ h]

/-! ### The codes -/

theorem decodeAck_ok (p : Params) : decodeAck p p.ackOk = .ok := by simp [decodeAck]

theorem decodeAck_wait (p : Params) (h : p.ackOk ≠ p.ackWait) : decodeAck p p.ackWait = .wait := by
  simp [decodeAck, h.symm]

theorem decodeAck_fault (p : Params) (h1 : p.ackOk ≠ p.ackFault) (h2 : p.ackWait ≠ p.ackFault) :
    decodeAck p p.ackFault = .fault := by
  simp [decodeAck, h1.symm, h2.symm]

theorem decodeAck_protocol (p : Params) (a : BitVec 3) (h1 : a ≠ p.ackOk) (h2 : a ≠ p.ackWait) (h3 : a ≠ p.ackFault) :
    decodeAck p a = .protocol := by
  simp [decodeAck, h1, h2, h3]

end Sys2Proof.Machine
end

