-- ==== Sys2Proof/Laws/Commands.lean ====
section
/-! SUPPORT. What the line sequences, connect, abort_and_clear, and the acceptance checks do. -/

namespace Sys2Proof.Machine

/-! ### The line sequences -/

/-- `s` after `cs` host-driven cycles, with SWDIO left driven at `b`. -/
def driven (s : State) (cs : List Cycle) (b : Bool) : State :=
  { s with trace := s.trace ++ cs, swdioDir := .out, swdioOut := b, swclk := false }

theorem driven_driven (s : State) (cs cs' : List Cycle) (b b' : Bool) :
    driven (driven s cs b) cs' b' = driven s (cs ++ cs') b' := by simp [driven]

theorem shiftOut_driven (v : Word) (n : Nat) (s : State) :
    shiftOut v (n + 1) s = driven s (shiftRun v (n + 1)) (v.getLsbD n) := shiftOut_eq v n s

theorem clockIdle_driven (n : Nat) (l : Bool) (s : State) (cs : List Cycle) (b : Bool) :
    clockIdle n (if l then .high else .low) (driven s cs b) =
      driven s (cs ++ List.replicate n (hostCycle l)) l := by
  cases l <;> simp [clockIdle_eq, driven, setLevel, drive, levelCycle]

/-- The cycles of `reset_v1` (R161). -/
def resetV1Cycles (p : Params) : List Cycle :=
  highRun p.resetHighCycles ++ shiftRun 0xE79E 16 ++ highRun p.resetHighCycles ++ idleRun p.resetLowCycles

/-- The cycles of `reset_v2` (R164). -/
def resetV2Cycles (p : Params) (jtag : Bool) : List Cycle :=
  highRun p.resetHighCycles ++ (if jtag then shiftRun 0x33BBBBBA 31 else []) ++ highRun p.v2HighCycles ++
  shiftRun 0x6209F392 32 ++ shiftRun 0x86852D95 32 ++ shiftRun 0xE3DDAFE9 32 ++ shiftRun 0x19BC0EA2 32 ++
  idleRun 4 ++ shiftRun 0x1A 8 ++ resetV1Cycles p

/-- The cycles of `swd_to_dormant` (R168). -/
def toDormantCycles (p : Params) : List Cycle := highRun p.resetHighCycles ++ shiftRun 0xE3BC 16

/-- `reset_v1`: only the pins and the trace change (R160, R161). -/
theorem lineResetV1_eq (s : State) : lineResetV1 s = driven s (resetV1Cycles s.params) false := by
  have h1 := clockIdle_eq s.params.resetHighCycles .high s
  simp only [lineResetV1, h1, shiftOut_driven, setLevel, drive]
  have h2 := clockIdle_driven s.params.resetHighCycles true
  have h3 := clockIdle_driven s.params.resetLowCycles false
  simp only [if_true, Bool.false_eq_true, if_false] at h2 h3
  rw [h2, h3]
  simp [driven, resetV1Cycles, highRun, idleRun, levelCycle, jtagToSwd]

/-- `reset_v2`: only the pins and the trace change (R160, R164). -/
theorem lineResetV2_eq (jtag : Bool) (s : State) :
    lineResetV2 jtag s = driven s (resetV2Cycles s.params jtag) false := by
  simp only [lineResetV2, lineResetV1_eq, selectionAlert]
  simp only [shiftOut_driven]
  cases jtag <;>
    simp [optionalJtagToDormant, clockIdle_eq, shiftOut_driven, driven, setLevel, drive, levelCycle, resetV2Cycles, highRun,
      idleRun, Config.v2LowCycles, alertWord0, alertWord1, alertWord2, alertWord3, swdActivation, jtagToDormant,
      List.append_assoc]

/-- `swd_to_dormant`: the last bit is 1, and the line is set low without a clock (R168, R169). -/
theorem lineToDormant_eq (s : State) : lineToDormant s = driven s (toDormantCycles s.params) false := by
  simp [lineToDormant, clockIdle_eq, shiftOut_driven, driven, setLevel, drive, levelCycle, toDormantCycles, highRun,
    swdToDormantSeq]

theorem connectReset_eq (kind : ResetKind) (jtag : Bool) (s : State) :
    connectReset kind jtag s =
      driven s (match kind with | .v1 => resetV1Cycles s.params | .v2 => resetV2Cycles s.params jtag) false := by
  cases kind
  · exact lineResetV1_eq s
  · exact lineResetV2_eq jtag s

/-! ### Acceptance -/

/-- The one inversion of `accept`: what a next state says (R14, R93). -/
theorem accept_next {clocks : Bool} {s go t : State} (h : accept clocks s go = .next t) :
    s.phase = .idle ∧ (clocks = true → s.swclk = false) ∧ t = go := by
  unfold accept at h
  split at h
  · cases h
  · split at h
    · cases h
    · rename_i h1 h2
      cases h
      exact ⟨by simpa using h1, by simpa using h2, rfl⟩

theorem acceptPin_next {clocks : Bool} {s go t : State} (h : acceptPin clocks s go = .next t) :
    s.moreOwed = false ∧ s.phase = .idle ∧ (clocks = true → s.swclk = false) ∧ t = go := by
  unfold acceptPin at h
  split at h
  · cases h
  · rename_i hm
    exact ⟨by simpa using hm, accept_next h⟩

theorem acceptReleased_next {clocks : Bool} {s go t : State} (h : acceptReleased clocks s go = .next t) :
    s.swdioDir = .inp ∧ s.moreOwed = false ∧ s.phase = .idle ∧ (clocks = true → s.swclk = false) ∧ t = go := by
  unfold acceptReleased at h
  split at h
  · cases h
  · rename_i hm
    split at h
    · cases h
    · exact ⟨‹_›, by simpa using hm, accept_next h⟩

/-- What the ABORT write is, by the operands of a command with a legal address (R236; log entry 8). -/
theorem isAbortWrite_iff {d : Descriptor} (p : Params) (ha : legalAddr d.addr = true) :
    isAbortWrite p d.port d.access (BitVec.ofNat 8 d.addr) = true ↔
      d.port = .dp ∧ d.access = .write 0x1E ∧ d.addr = p.abortAddr.toNat := by
  have hlt : d.addr < 256 := by simp [legalAddr] at ha; omega
  have haddr : BitVec.ofNat 8 d.addr = p.abortAddr ↔ d.addr = p.abortAddr.toNat := by
    rw [← BitVec.toNat_inj, BitVec.toNat_ofNat, Nat.mod_eq_of_lt hlt]
  rw [isAbortWrite, Bool.and_eq_true, Bool.and_eq_true, decide_eq_true_iff, decide_eq_true_iff, decide_eq_true_iff, haddr,
    and_assoc, Config.abortClearValue]

theorem acceptTransaction_next {port : Port} {access : Access} {addr : BitVec 8} {s go t : State}
    (h : acceptTransaction port access addr s go = .next t) :
    (s.connState ≠ .faulted ∨ isAbortWrite s.params port access addr = true) ∧ s.phase = .idle ∧ s.swclk = false ∧
      t = go := by
  unfold acceptTransaction at h
  split at h
  · cases h
  · rename_i hc
    have := accept_next h
    refine ⟨?_, this.1, this.2.1 rfl, this.2.2⟩
    by_cases hf : s.connState = .faulted
    · right; simpa [hf] using hc
    · exact Or.inl hf

theorem runTransaction_next {d : Descriptor} {bits : List Bool} {s t : State} (h : runTransaction d bits s = .next t) :
    (legalAddr d.addr = false ∧ t = answer (.error .invalidOperand) s) ∨
    (legalAddr d.addr = true ∧ s.Admits d ∧ s.Ready ∧
      t = transaction d.port d.access (BitVec.ofNat 8 d.addr) d.more (present bits s)) := by
  unfold runTransaction at h
  split at h
  · obtain ⟨h1, h2, h3, h4⟩ := acceptTransaction_next h
    exact Or.inr ⟨‹_›, h1.imp_right (isAbortWrite_iff _ ‹_›).mp, ⟨h2, h3⟩, h4⟩
  · rename_i hl
    cases h
    exact Or.inl ⟨by simpa using hl, rfl⟩

/-- When a command that clocks is accepted. -/
theorem accept_ready (clocks : Bool) (s go : State) (h : s.Ready) : accept clocks s go = .next go := by
  simp [accept, h.1, h.2]

theorem acceptPin_quiet (clocks : Bool) (s go : State) (h : s.Quiet) : acceptPin clocks s go = .next go := by
  simp [acceptPin, h.2, accept_ready clocks s go h.1]

theorem acceptReleased_quiet (clocks : Bool) (s go : State) (h : s.Quiet) (hd : s.swdioDir = .inp) :
    acceptReleased clocks s go = .next go := by
  simp [acceptReleased, hd, h.2, accept_ready clocks s go h.1]

theorem runTransaction_ready (d : Descriptor) (bits : List Bool) (s : State) (ha : legalAddr d.addr = true)
    (hr : s.Ready) (hf : s.Admits d) :
    runTransaction d bits s =
      .next (transaction d.port d.access (BitVec.ofNat 8 d.addr) d.more (present bits s)) := by
  have : (decide (s.connState = .faulted) &&
      !isAbortWrite s.params d.port d.access (BitVec.ofNat 8 d.addr)) = false := by
    rcases hf with h | h
    · simp [h]
    · simp [(isAbortWrite_iff s.params ha).mpr h]
  simp [runTransaction, ha, acceptTransaction, this, accept_ready true s _ hr]

/-! ### A bare transaction -/

/-- The rows that are transactions all run the one shared operation (R63, R70, R71, R144, R145). -/
theorem exec_transaction {s : State} {i : Instr} {d : Descriptor} {bits : List Bool}
    (h : transactionOf s.params i = some (d, bits)) : exec i s = runTransaction d bits s := by
  cases i <;> simp only [transactionOf, Option.some.injEq, Prod.mk.injEq, reduceCtorEq] at h <;>
    obtain ⟨rfl, rfl⟩ := h <;> rfl

/-- The registers a descriptor loads. -/
def txnOf (d : Descriptor) : Txn := newTxn d.port d.access (BitVec.ofNat 8 d.addr) d.more

/-- A transaction for every sequence of draws (R137, R143, R149, R190). -/
theorem runTransaction_spec (d : Descriptor) (bits : List Bool) (s : State) (ha : legalAddr d.addr = true) (hr : s.Ready)
    (hf : s.Admits d) :
    ∃ r cs n a, runTransaction d bits s =
        .next (setMoreOwed d.more (answer (replyOf r)
          (settled (present bits s) (cs ++ trailOf s.params (txnOf d) r) n a (outcomeState r s.connState)))) ∧
      1 ≤ a ∧ a ≤ s.waitRetries + 1 ∧ (r = .wait → a = s.waitRetries + 1) ∧
      (∀ c ∈ cs, c.sample = none ∨ c.hold = .z) ∧ cs.length ≤ 13 * (a - 1) + 46 ∧ 13 * a ≤ cs.length ∧
      ((∃ v, d.access = .write v) → r ≠ .parityBad ∧ ∀ v, r ≠ .okRead v) ∧ (d.access = .read → r ≠ .okWrite) := by
  obtain ⟨r, cs, n, a, h, rest⟩ := transact_spec (txnOf d) (present bits s)
  refine ⟨r, cs, n, a, ?_, rest⟩
  rw [runTransaction_ready d bits s ha hr hf, transaction]
  rw [show newTxn d.port d.access (BitVec.ofNat 8 d.addr) d.more = txnOf d from rfl, h]
  rfl

/-- A transaction answered WAIT `k` times and then with an attempt of a given outcome `r`, cycles `cs` and `m` samples. -/
theorem runTransaction_answered {s : State} {d : Descriptor} {bits rest : List Bool} {k : Nat} {r : AttemptResult}
    {cs : List Cycle} {m : Nat} (ha : legalAddr d.addr = true) (hr : s.Ready) (hf : s.Admits d)
    (hc : s.params.Constrained) (hk : k ≤ s.waitRetries) (hl : bits ++ s.line = waitBits s.params k ++ rest)
    (hw : r ≠ .wait ∨ k = s.waitRetries)
    (hlast : ∀ s' : State, s'.params = s.params → s'.line = rest →
      resultOf (txnOf d) s' = r ∧ cyclesOf (txnOf d) s' = cs ∧ samplesOf (txnOf d) s' = m) :
    runTransaction d bits s = .next { s with
      trace := s.trace ++ (waitAttempts s.params d k ++ cs ++ trailOf s.params (txnOf d) r),
      swdioDir := .out, swdioOut := false, txn := none, ackCount := s.ackCount + (k + 1), line := rest.drop m,
      draws := s.draws + (3 * k + m), reply := some (replyOf r), moreOwed := d.more,
      connState := outcomeState r s.connState } := by
  rw [runTransaction_ready d bits s ha hr hf]
  have ht := transact_answered (txnOf d) k (present bits s) rest r cs m hk
    (decodeAck_wait _ hc.2.2.2.2.2.1) hl hw hlast
  simp only [transaction]
  rw [show newTxn d.port d.access (BitVec.ofNat 8 d.addr) d.more = txnOf d from rfl, ht]
  have hwl : (waitBits s.params k).length = 3 * k := by simp [waitBits, Nat.mul_comm]
  have hdrop : (bits ++ s.line).drop (3 * k + m) = rest.drop m := by
    rw [hl, ← hwl, List.drop_append]; simp
  have hwc : waitCycles (txnOf d) s.params k = waitAttempts s.params d k := rfl
  simp [answer, setMoreOwed, settled, present, hdrop, hwc, hr.1, hr.2]

/-! ### connect, abort_and_clear -/

/-- `connect` for every sequence of draws: a word and Connected with it, or an error and Disconnected with none
(R182 to R185). -/
theorem connectSequence_spec (kind : ResetKind) (jtag : Bool) (s : State) :
    ∃ r cs n a st, connectSequence kind jtag s = (r, st) ∧
      st = { settled s cs n a st.connState with idcode := st.idcode } ∧
      ((∃ v, r = .word v ∧ st.connState = .connected ∧ st.idcode = some v) ∨
        ((∃ e, r = .error e) ∧ st.connState = .disconnected ∧ st.idcode = none)) ∧
      1 ≤ a ∧ a ≤ s.waitRetries + 1 ∧ (∀ c ∈ cs, c.sample = none ∨ c.hold = .z) := by
  obtain ⟨r, cs, n, a, h, ha1, ha2, -, hcs, -, -, -, hr⟩ :=
    transact_spec idcodeTxn (setConn .idCodeRead (connectReset kind jtag (beginConnect s)))
  have hdr := connectReset_eq kind jtag (beginConnect s)
  have hhost : ∀ (n : Nat) (b : Bool), ∀ c ∈ List.replicate n (hostCycle b), c.sample = none := by
    intro n b c hc; rw [List.mem_replicate] at hc; rw [hc.2]; rfl
  have hshift : ∀ (v : Word) (n : Nat), ∀ c ∈ shiftRun v n, c.sample = none := by
    intro v n c hc; simp only [shiftRun, List.mem_map] at hc; obtain ⟨b, -, rfl⟩ := hc; rfl
  have hv1 : ∀ c ∈ resetV1Cycles s.params, c.sample = none := by
    intro c hc
    simp only [resetV1Cycles, highRun, idleRun, List.mem_append] at hc
    rcases hc with ((hc | hc) | hc) | hc <;> first | exact hhost _ _ c hc | exact hshift _ _ c hc
  have hv2 : ∀ c ∈ resetV2Cycles s.params jtag, c.sample = none := by
    intro c hc
    simp only [resetV2Cycles, highRun, idleRun, List.mem_append] at hc
    rcases hc with ((((((((hc | hc) | hc) | hc) | hc) | hc) | hc) | hc) | hc) | hc
    case inl.inl.inl.inl.inl.inl.inl.inl.inr =>
      split at hc
      · exact hshift _ _ c hc
      · simp at hc
    all_goals first | exact hhost _ _ c hc | exact hshift _ _ c hc | exact hv1 c hc
  have hreset : ∀ c ∈ (match kind with | .v1 => resetV1Cycles s.params | .v2 => resetV2Cycles s.params jtag),
      c.sample = none := by
    cases kind
    · exact hv1
    · exact hv2
  have hst : connectSequence kind jtag s =
      (replyOf r, endConnect (replyOf r)
        (settled (setConn .idCodeRead (connectReset kind jtag (beginConnect s)))
          (cs ++ trailOf s.params idcodeTxn r) n a .idCodeRead)) := by
    have hp : (setConn .idCodeRead (connectReset kind jtag (beginConnect s))).params = s.params := by
      rw [hdr]; rfl
    have ho : outcomeState r .idCodeRead = .idCodeRead := by cases r <;> rfl
    have hc : (setConn .idCodeRead (connectReset kind jtag (beginConnect s))).connState = .idCodeRead := rfl
    rw [connectSequence]
    simp only [h, hp, hc, ho]
  refine ⟨replyOf r, (match kind with | .v1 => resetV1Cycles s.params | .v2 => resetV2Cycles s.params jtag) ++
    (cs ++ trailOf s.params idcodeTxn r), n, a, _, hst, ?_, ?_, ha1, ?_, ?_⟩
  · rw [hdr]
    cases r <;> simp [endConnect, replyOf, settled, driven, beginConnect, setConn]
  · rw [hdr]
    cases r with
    | okRead v => exact Or.inl ⟨v, rfl, rfl, rfl⟩
    | okWrite => exact absurd rfl (hr rfl)
    | wait => exact Or.inr ⟨⟨_, rfl⟩, rfl, rfl⟩
    | fault => exact Or.inr ⟨⟨_, rfl⟩, rfl, rfl⟩
    | protocol a => exact Or.inr ⟨⟨_, rfl⟩, rfl, rfl⟩
    | parityBad => exact Or.inr ⟨⟨_, rfl⟩, rfl, rfl⟩
  · rw [hdr] at ha2; exact ha2
  · intro c hc
    rcases List.mem_append.mp hc with hc | hc
    · exact Or.inl (hreset c hc)
    · rcases List.mem_append.mp hc with hc | hc
      · exact hcs c hc
      · exact Or.inl (trailOf_unsampled _ _ _ c hc)

theorem settled_settled (s : State) (cs cs' : List Cycle) (n n' a a' : Nat) (c c' : ConnState) :
    settled (settled s cs n a c) cs' n' a' c' = settled s (cs ++ cs') (n + n') (a + a') c' := by
  simp [settled, Nat.add_assoc]

/-- `abort_and_clear` for every sequence of draws: a word after two acknowledged transactions, which moves Faulted to
Connected and no other state; or an error, which leaves the state as the failing transaction left it (R188, R189). -/
theorem abortSequence_spec (s : State) :
    ∃ r cs n a c, abortSequence s = (r, settled s cs n a c) ∧
      ((∃ v, r = .word v ∧ c = if s.connState = .faulted then .connected else s.connState) ∨
        ((∃ e, r = .error e ∧
          c = (match e with | .faultAcknowledge => faultedFrom s.connState
                            | .badAcknowledge _ => faultedFrom s.connState | _ => s.connState)))) ∧
      1 ≤ a ∧ a ≤ 2 * (s.waitRetries + 1) ∧ (∀ c ∈ cs, c.sample = none ∨ c.hold = .z) := by
  obtain ⟨r1, cs1, n1, a1, h1, ha1, hb1, -, hcs1, -, -, hw1, -⟩ := transact_spec (abortTxn s.params) s
  obtain ⟨hpb, hor⟩ := hw1 ⟨_, rfl⟩
  have hz1 : ∀ c ∈ cs1 ++ trailOf s.params (abortTxn s.params) r1, c.sample = none ∨ c.hold = .z := by
    intro c hc
    rcases List.mem_append.mp hc with hc | hc
    · exact hcs1 c hc
    · exact Or.inl (trailOf_unsampled _ _ _ c hc)
  cases r1 with
  | okRead v => exact absurd rfl (hor v)
  | parityBad => exact absurd rfl hpb
  | wait =>
    exact ⟨_, _, n1, a1, s.connState, by rw [abortSequence, h1]; rfl, Or.inr ⟨_, rfl, rfl⟩, ha1, by omega, hz1⟩
  | fault =>
    exact ⟨_, _, n1, a1, _, by rw [abortSequence, h1]; rfl, Or.inr ⟨_, rfl, rfl⟩, ha1, by omega, hz1⟩
  | protocol raw =>
    exact ⟨_, _, n1, a1, _, by rw [abortSequence, h1]; rfl, Or.inr ⟨_, rfl, rfl⟩, ha1, by omega, hz1⟩
  | okWrite =>
    obtain ⟨r2, cs2, n2, a2, h2, ha2, hb2, -, hcs2, -, -, -, hr2⟩ := transact_spec (ctrlstatTxn s.params)
      (settled s (cs1 ++ trailOf s.params (abortTxn s.params) .okWrite) n1 a1 s.connState)
    have hz2 : ∀ c ∈ (cs1 ++ trailOf s.params (abortTxn s.params) .okWrite) ++
        (cs2 ++ trailOf s.params (ctrlstatTxn s.params) r2), c.sample = none ∨ c.hold = .z := by
      intro c hc
      rcases List.mem_append.mp hc with hc | hc
      · exact hz1 c hc
      · rcases List.mem_append.mp hc with hc | hc
        · exact hcs2 c hc
        · exact Or.inl (trailOf_unsampled _ _ _ c hc)
    have hb2' : a2 ≤ s.waitRetries + 1 := hb2
    have heq : abortSequence s = (replyOf r2, recover (replyOf r2)
        (settled s ((cs1 ++ trailOf s.params (abortTxn s.params) .okWrite) ++
          (cs2 ++ trailOf s.params (ctrlstatTxn s.params) r2)) (n1 + n2) (a1 + a2)
          (outcomeState r2 s.connState))) := by
      have ho : outcomeState .okWrite s.connState = s.connState := rfl
      rw [abortSequence, h1, ho]
      simp only [replyOf, h2, settled_settled]
      rfl
    cases r2 with
    | okWrite => exact absurd rfl (hr2 rfl)
    | okRead v =>
      refine ⟨_, _, n1 + n2, a1 + a2, (if s.connState = .faulted then .connected else s.connState), ?_,
        Or.inl ⟨v, rfl, rfl⟩, by omega, by omega, hz2⟩
      rw [heq]
      cases hc : s.connState <;> simp [recover, replyOf, settled, outcomeState, setConn]
    | wait =>
      exact ⟨_, _, n1 + n2, a1 + a2, _, by rw [heq]; rfl, Or.inr ⟨_, rfl, rfl⟩, by omega, by omega, hz2⟩
    | parityBad =>
      exact ⟨_, _, n1 + n2, a1 + a2, _, by rw [heq]; rfl, Or.inr ⟨_, rfl, rfl⟩, by omega, by omega, hz2⟩
    | fault =>
      exact ⟨_, _, n1 + n2, a1 + a2, _, by rw [heq]; rfl, Or.inr ⟨_, rfl, rfl⟩, by omega, by omega, hz2⟩
    | protocol raw =>
      exact ⟨_, _, n1 + n2, a1 + a2, _, by rw [heq]; rfl, Or.inr ⟨_, rfl, rfl⟩, by omega, by omega, hz2⟩

end Sys2Proof.Machine
end

