-- ==== Sys2Proof/Laws/PerInstr.lean ====
section
/-! SUPPORT. Statements per instruction: the wire word of every instruction's packet fits its width. -/

namespace Sys2Proof.Laws.EncodeFits

/-- The numeral of a wire packet has no bit above the packet's width. -/
def Fits : Packet → Prop
  | .wire width word _ => word < 2 ^ width
  | .command _ _ => True

/-- The packet of an instruction fits. -/
def Statement (i : Instr) : Prop := Fits (encode i)

theorem wireOf_fits (bs : List Bool) (operands : List Nat) : Fits (wireOf bs operands) :=
  Machine.natOfBits_lt bs

theorem data_fits (data : Word) (p : Bool) : data.toNat + 2 ^ 32 * p.toNat < 2 ^ 33 := by
  have h1 : data.toNat < 2 ^ 32 := data.isLt
  have h2 := p.toNat_lt
  omega

theorem swdRead (port : Port) (addr : Nat) (more : Bool) : Statement (.swdRead port addr more) := trivial

theorem swdWrite (port : Port) (addr : Nat) (data : Word) (more : Bool) : Statement (.swdWrite port addr data more) := trivial

theorem swdWriteDp0 (bank : BitVec 4) (data : Word) (more : Bool) : Statement (.swdWriteDp0 bank data more) := wireOf_fits _ _

theorem swdWriteDp4 (bank : BitVec 4) (data : Word) (more : Bool) : Statement (.swdWriteDp4 bank data more) := wireOf_fits _ _

theorem swdWriteDp8 (bank : BitVec 4) (data : Word) (more : Bool) : Statement (.swdWriteDp8 bank data more) := wireOf_fits _ _

theorem swdWriteDpC (bank : BitVec 4) (data : Word) (more : Bool) : Statement (.swdWriteDpC bank data more) := wireOf_fits _ _

theorem swdReadDp0 (bank : BitVec 4) (more : Bool) : Statement (.swdReadDp0 bank more) := wireOf_fits _ _

theorem swdReadDp4 (bank : BitVec 4) (more : Bool) : Statement (.swdReadDp4 bank more) := wireOf_fits _ _

theorem swdReadDp8 (bank : BitVec 4) (more : Bool) : Statement (.swdReadDp8 bank more) := wireOf_fits _ _

theorem swdReadDpC (bank : BitVec 4) (more : Bool) : Statement (.swdReadDpC bank more) := wireOf_fits _ _

theorem swdWriteAp0 (bank : BitVec 4) (data : Word) (more : Bool) : Statement (.swdWriteAp0 bank data more) := wireOf_fits _ _

theorem swdWriteAp4 (bank : BitVec 4) (data : Word) (more : Bool) : Statement (.swdWriteAp4 bank data more) := wireOf_fits _ _

theorem swdWriteAp8 (bank : BitVec 4) (data : Word) (more : Bool) : Statement (.swdWriteAp8 bank data more) := wireOf_fits _ _

theorem swdWriteApC (bank : BitVec 4) (data : Word) (more : Bool) : Statement (.swdWriteApC bank data more) := wireOf_fits _ _

theorem swdReadAp0 (bank : BitVec 4) (more : Bool) : Statement (.swdReadAp0 bank more) := wireOf_fits _ _

theorem swdReadAp4 (bank : BitVec 4) (more : Bool) : Statement (.swdReadAp4 bank more) := wireOf_fits _ _

theorem swdReadAp8 (bank : BitVec 4) (more : Bool) : Statement (.swdReadAp8 bank more) := wireOf_fits _ _

theorem swdReadApC (bank : BitVec 4) (more : Bool) : Statement (.swdReadApC bank more) := wireOf_fits _ _

theorem ackOk (d : Descriptor) : Statement (.ackOk d) := wireOf_fits _ _

theorem ackWait (d : Descriptor) : Statement (.ackWait d) := wireOf_fits _ _

theorem ackFault (d : Descriptor) : Statement (.ackFault d) := wireOf_fits _ _

theorem ackProtocol0 (d : Descriptor) : Statement (.ackProtocol0 d) := wireOf_fits _ _

theorem ackProtocol3 (d : Descriptor) : Statement (.ackProtocol3 d) := wireOf_fits _ _

theorem ackProtocol5 (d : Descriptor) : Statement (.ackProtocol5 d) := wireOf_fits _ _

theorem ackProtocol6 (d : Descriptor) : Statement (.ackProtocol6 d) := wireOf_fits _ _

theorem ackProtocol7 (d : Descriptor) : Statement (.ackProtocol7 d) := wireOf_fits _ _

theorem data (f : DataField) : Statement (.data f) := by
  cases f with
  | dataOut data => exact data_fits data (par32 data)
  | dataIn data p => exact data_fits data p

theorem trn (k : TrnKind) : Statement (.trn k) := by
  cases k <;> exact Nat.lt_succ_of_lt Nat.one_pos

theorem idle : Statement .idle := wireOf_fits _ _

theorem resetV1 : Statement .resetV1 := wireOf_fits _ _

theorem resetV2 : Statement .resetV2 := wireOf_fits _ _

theorem resetV2Jtag : Statement .resetV2Jtag := wireOf_fits _ _

theorem swdToDormant : Statement .swdToDormant := wireOf_fits _ _

theorem seqJtagToSwd : Statement .seqJtagToSwd := wireOf_fits _ _

theorem seqJtagToDormant : Statement .seqJtagToDormant := wireOf_fits _ _

theorem seqAlertWord0 : Statement .seqAlertWord0 := wireOf_fits _ _

theorem seqAlertWord1 : Statement .seqAlertWord1 := wireOf_fits _ _

theorem seqAlertWord2 : Statement .seqAlertWord2 := wireOf_fits _ _

theorem seqAlertWord3 : Statement .seqAlertWord3 := wireOf_fits _ _

theorem seqSwdActivation : Statement .seqSwdActivation := wireOf_fits _ _

theorem seqSwdToDormant : Statement .seqSwdToDormant := wireOf_fits _ _

theorem setSwdioOut (level : Nat) : Statement (.setSwdioOut level) := trivial

theorem setSwdioIn : Statement .setSwdioIn := trivial

theorem clockPulse : Statement .clockPulse := trivial

theorem shiftOut (bits : Word) (n : Nat) : Statement (.shiftOut bits n) := trivial

theorem shiftIn (n : Nat) : Statement (.shiftIn n) := trivial

theorem clockIdle (n : Nat) (level : Nat) : Statement (.clockIdle n level) := trivial

theorem turnaroundRelease : Statement .turnaroundRelease := trivial

theorem turnaroundRetake : Statement .turnaroundRetake := trivial

theorem setSpeed (code : Nat) : Statement (.setSpeed code) := trivial

theorem rawClock (level : Nat) (post : Nat) (count : Nat) : Statement (.rawClock level post count) := trivial

theorem connect (kind : ResetKind) (jtagToDormant : Bool) : Statement (.connect kind jtagToDormant) := by
  cases kind <;> exact trivial

theorem disconnect : Statement .disconnect := trivial

theorem abortAndClear : Statement .abortAndClear := trivial

end Sys2Proof.Laws.EncodeFits
end

