-- ==== Sys2Proof/Laws/Unread.lean ====
section
/-! SUPPORT. No shared operation reads `speed` (R16) or the answer of the last command: each commutes with a change of the two
fields, and giving an answer forgets the one before. -/

namespace Sys2Proof.Machine

/-- The two fields that no operation reads, changed. -/
def mapUnread (f : Speed → Speed) (g : Option Reply → Option Reply) (s : State) : State :=
  { s with speed := f s.speed, reply := g s.reply }

variable (f : Speed → Speed) (g g' : Option Reply → Option Reply)

/-! ### The fields that operations read -/

@[simp] theorem mapUnread_swclk (s : State) : (mapUnread f g s).swclk = s.swclk := rfl
@[simp] theorem mapUnread_swdioDir (s : State) : (mapUnread f g s).swdioDir = s.swdioDir := rfl
@[simp] theorem mapUnread_phase (s : State) : (mapUnread f g s).phase = s.phase := rfl
@[simp] theorem mapUnread_moreOwed (s : State) : (mapUnread f g s).moreOwed = s.moreOwed := rfl
@[simp] theorem mapUnread_params (s : State) : (mapUnread f g s).params = s.params := rfl
@[simp] theorem mapUnread_connState (s : State) : (mapUnread f g s).connState = s.connState := rfl
@[simp] theorem mapUnread_waitRetries (s : State) : (mapUnread f g s).waitRetries = s.waitRetries := rfl
@[simp] theorem mapUnread_speed (s : State) : (mapUnread f g s).speed = f s.speed := rfl
@[simp] theorem mapUnread_reply (s : State) : (mapUnread f g s).reply = g s.reply := rfl
theorem mapUnread_id (s : State) : mapUnread id id s = s := rfl

/-! ### Pins, cycles, shifts -/

@[simp] theorem drive_mapUnread (b : Bool) (s : State) : drive b (mapUnread f g s) = mapUnread f g (drive b s) := rfl
@[simp] theorem release_mapUnread (s : State) : release (mapUnread f g s) = mapUnread f g (release s) := rfl
@[simp] theorem pulse_mapUnread (s : State) : pulse (mapUnread f g s) = mapUnread f g (pulse s) := rfl

@[simp] theorem pulses_mapUnread (n : Nat) (s : State) : pulses n (mapUnread f g s) = mapUnread f g (pulses n s) := by
  induction n generalizing s with
  | zero => rfl
  | succ n ih => exact ih (pulse s)

@[simp] theorem shiftOut_mapUnread (v : Word) (n : Nat) (s : State) :
    shiftOut v n (mapUnread f g s) = mapUnread f g (shiftOut v n s) := by
  rw [shiftOut, shiftOut]
  generalize lsbFirst v n = bs
  induction bs generalizing s with
  | nil => rfl
  | cons b bs ih => exact ih (writeBit s b)

@[simp] theorem nextBit_mapUnread (s : State) : nextBit (mapUnread f g s) = nextBit s := rfl

@[simp] theorem sampledBits_mapUnread (n : Nat) (s : State) : sampledBits n (mapUnread f g s) = sampledBits n s :=
  sampledBits_congr n _ _ rfl rfl

@[simp] theorem shiftIn_mapUnread (n : Nat) (s : State) : shiftIn n (mapUnread f g s) = mapUnread f g (shiftIn n s) := by
  rw [shiftIn, shiftIn]
  induction n generalizing s with
  | zero => rfl
  | succ n ih => exact ih (sampleCycle s)

@[simp] theorem shiftInValue_mapUnread (n : Nat) (s : State) : shiftInValue n (mapUnread f g s) = shiftInValue n s := by
  simp [shiftInValue]

@[simp] theorem setLevel_mapUnread (l : Level) (s : State) :
    setLevel l (mapUnread f g s) = mapUnread f g (setLevel l s) := by cases l <;> rfl

@[simp] theorem clockIdle_mapUnread (n : Nat) (l : Level) (s : State) :
    clockIdle n l (mapUnread f g s) = mapUnread f g (clockIdle n l s) := by simp [clockIdle]

@[simp] theorem turnaroundRelease_mapUnread (s : State) :
    turnaroundRelease (mapUnread f g s) = mapUnread f g (turnaroundRelease s) := by simp [turnaroundRelease]

@[simp] theorem turnaroundRetake_mapUnread (s : State) :
    turnaroundRetake (mapUnread f g s) = mapUnread f g (turnaroundRetake s) := by simp [turnaroundRetake]

/-! ### The transaction -/

@[simp] theorem enter_mapUnread (p : Phase) (s : State) : enter p (mapUnread f g s) = mapUnread f g (enter p s) := rfl
@[simp] theorem loadTxn_mapUnread (t : Txn) (s : State) : loadTxn t (mapUnread f g s) = mapUnread f g (loadTxn t s) := rfl
@[simp] theorem updateTxn_mapUnread (u : Txn → Txn) (s : State) :
    updateTxn u (mapUnread f g s) = mapUnread f g (updateTxn u s) := rfl
@[simp] theorem endTxn_mapUnread (s : State) : endTxn (mapUnread f g s) = mapUnread f g (endTxn s) := rfl
@[simp] theorem startAttempt_mapUnread (s : State) : startAttempt (mapUnread f g s) = mapUnread f g (startAttempt s) := rfl
@[simp] theorem noteAck_mapUnread (a : BitVec 3) (s : State) :
    noteAck a (mapUnread f g s) = mapUnread f g (noteAck a s) := rfl
@[simp] theorem setConn_mapUnread (c : ConnState) (s : State) :
    setConn c (mapUnread f g s) = mapUnread f g (setConn c s) := rfl
@[simp] theorem setMoreOwed_mapUnread (m : Bool) (s : State) :
    setMoreOwed m (mapUnread f g s) = mapUnread f g (setMoreOwed m s) := rfl
@[simp] theorem present_mapUnread (bs : List Bool) (s : State) :
    present bs (mapUnread f g s) = mapUnread f g (present bs s) := rfl
@[simp] theorem beginConnect_mapUnread (s : State) : beginConnect (mapUnread f g s) = mapUnread f g (beginConnect s) := rfl
@[simp] theorem dropConnection_mapUnread (s : State) :
    dropConnection (mapUnread f g s) = mapUnread f g (dropConnection s) := rfl

/-- An answer forgets the one before (R14, R200). -/
@[simp] theorem answer_mapUnread (r : Reply) (s : State) : answer r (mapUnread f g s) = mapUnread f id (answer r s) := rfl

@[simp] theorem shiftOutData_mapUnread (v : Word) (s : State) :
    shiftOutData v (mapUnread f g s) = mapUnread f g (shiftOutData v s) := by simp [shiftOutData]

@[simp] theorem dataInWord_mapUnread (s : State) : dataInWord (mapUnread f g s) = dataInWord s := by simp [dataInWord]

@[simp] theorem dataInParity_mapUnread (s : State) : dataInParity (mapUnread f g s) = dataInParity s := by
  simp [dataInParity]

@[simp] theorem dataInResult_mapUnread (s : State) : dataInResult (mapUnread f g s) = dataInResult s := by
  unfold dataInResult; rw [dataInWord_mapUnread, dataInParity_mapUnread]

@[simp] theorem dataFieldReply_mapUnread (s : State) : dataFieldReply (mapUnread f g s) = dataFieldReply s := by
  unfold dataFieldReply; rw [dataInWord_mapUnread, dataInParity_mapUnread]

@[simp] theorem attempt_mapUnread (t : Txn) (s : State) :
    attempt t (mapUnread f g s) = ((attempt t s).1, mapUnread f g (attempt t s).2) := by
  simp only [attempt, dispatch, requestPhase, ackPhase, ackValue, retakePhase, dataInPhase, startAttempt_mapUnread,
    enter_mapUnread, shiftOut_mapUnread, turnaroundRelease_mapUnread, shiftIn_mapUnread, noteAck_mapUnread,
    sampledBits_mapUnread, mapUnread_params, updateTxn_mapUnread, turnaroundRetake_mapUnread, shiftOutData_mapUnread,
    dataInResult_mapUnread, dataInWord_mapUnread, dataInParity_mapUnread]
  split <;> simp

@[simp] theorem attempts_mapUnread (t : Txn) (n : Nat) (s : State) :
    attempts t n (mapUnread f g s) = ((attempts t n s).1, mapUnread f g (attempts t n s).2) := by
  induction n generalizing s with
  | zero => simp [attempts]
  | succ n ih =>
    simp only [attempts, attempt_mapUnread]
    rcases attempt t s with ⟨r, s'⟩
    cases r <;> simp [ih]

@[simp] theorem trail_mapUnread (t : Txn) (r : AttemptResult) (s : State) :
    trail t r (mapUnread f g s) = mapUnread f g (trail t r s) := by
  unfold trail; split
  · split <;> simp
  · simp

@[simp] theorem noteOutcome_mapUnread (r : AttemptResult) (s : State) :
    noteOutcome r (mapUnread f g s) = mapUnread f g (noteOutcome r s) := by
  unfold noteOutcome; simp only [mapUnread_connState]; split <;> simp

@[simp] theorem finishTxn_mapUnread (t : Txn) (r : AttemptResult) (s : State) :
    finishTxn t r (mapUnread f g s) = mapUnread f g (finishTxn t r s) := by simp [finishTxn]

@[simp] theorem transact_mapUnread (t : Txn) (s : State) :
    transact t (mapUnread f g s) = ((transact t s).1, mapUnread f g (transact t s).2) := by
  simp only [transact, loadTxn_mapUnread, attempts_mapUnread, mapUnread_waitRetries]
  rcases attempts t s.waitRetries (loadTxn t s) with ⟨r, s'⟩
  simp

/-! ### Line sequences, connect, abort_and_clear -/

@[simp] theorem lineResetV1_mapUnread (s : State) :
    lineResetV1 (mapUnread f g s) = mapUnread f g (lineResetV1 s) := by simp [lineResetV1]

@[simp] theorem lineResetV2_mapUnread (jtag : Bool) (s : State) :
    lineResetV2 jtag (mapUnread f g s) = mapUnread f g (lineResetV2 jtag s) := by
  cases jtag <;> simp [lineResetV2, selectionAlert, optionalJtagToDormant]

@[simp] theorem lineToDormant_mapUnread (s : State) :
    lineToDormant (mapUnread f g s) = mapUnread f g (lineToDormant s) := by simp [lineToDormant]

@[simp] theorem connectReset_mapUnread (kind : ResetKind) (jtag : Bool) (s : State) :
    connectReset kind jtag (mapUnread f g s) = mapUnread f g (connectReset kind jtag s) := by
  cases kind <;> simp [connectReset]

@[simp] theorem endConnect_mapUnread (r : Reply) (s : State) :
    endConnect r (mapUnread f g s) = mapUnread f g (endConnect r s) := by cases r <;> rfl

@[simp] theorem connectSequence_mapUnread (kind : ResetKind) (jtag : Bool) (s : State) :
    connectSequence kind jtag (mapUnread f g s) =
      ((connectSequence kind jtag s).1, mapUnread f g (connectSequence kind jtag s).2) := by simp [connectSequence]

@[simp] theorem recover_mapUnread (r : Reply) (s : State) :
    recover r (mapUnread f g s) = mapUnread f g (recover r s) := by
  unfold recover; simp only [mapUnread_connState]; split <;> simp

@[simp] theorem abortSequence_mapUnread (s : State) :
    abortSequence (mapUnread f g s) = ((abortSequence s).1, mapUnread f g (abortSequence s).2) := by
  simp only [abortSequence, transact_mapUnread, mapUnread_params]
  split <;> simp

/-! ### Acceptance: the new answer is the only one the next state can hold -/

@[simp] theorem accept_mapUnread (clocks : Bool) (s go : State) :
    accept clocks (mapUnread f g s) (mapUnread f g' go) = mapNext (mapUnread f g') (accept clocks s go) := by
  by_cases hp : s.phase = .idle <;> by_cases hc : (clocks && s.swclk) = true <;> simp [accept, hp, hc, mapNext]

@[simp] theorem acceptPin_mapUnread (clocks : Bool) (s go : State) :
    acceptPin clocks (mapUnread f g s) (mapUnread f g' go) = mapNext (mapUnread f g') (acceptPin clocks s go) := by
  unfold acceptPin; simp only [mapUnread_moreOwed, accept_mapUnread]; split <;> rfl

@[simp] theorem acceptReleased_mapUnread (clocks : Bool) (s go : State) :
    acceptReleased clocks (mapUnread f g s) (mapUnread f g' go) =
      mapNext (mapUnread f g') (acceptReleased clocks s go) := by
  unfold acceptReleased; simp only [mapUnread_moreOwed, mapUnread_swdioDir, accept_mapUnread]
  split
  · rfl
  · split <;> rfl

@[simp] theorem invalidOperand_mapUnread (s : State) :
    invalidOperand (mapUnread f g s) = mapNext (mapUnread f id) (invalidOperand s) := rfl

@[simp] theorem runTransaction_mapUnread (d : Descriptor) (bits : List Bool) (s : State) :
    runTransaction d bits (mapUnread f g s) = mapNext (mapUnread f id) (runTransaction d bits s) := by
  unfold runTransaction; split
  · unfold acceptTransaction transaction
    rw [mapUnread_params, mapUnread_connState]; split
    · rfl
    · simp
  · simp

@[simp] theorem runSequence_mapUnread (v : Word) (n : Nat) (s : State) :
    runSequence v n (mapUnread f g s) = mapNext (mapUnread f id) (runSequence v n s) := by simp [runSequence]

/-- With both fields left alone nothing is changed. -/
@[simp] theorem mapNext_mapUnread_id (o : Host.Outcome State Fault Refusal) : mapNext (mapUnread id id) o = o := by
  cases o <;> rfl

end Sys2Proof.Machine
end

