-- ==== Sys2Proof/Tests/Slice0.lean ====
section
/-! SUPPORT. Tests. Expected results come from spec/95_test_vectors.md (the V-… vectors) and from the tables of
spec/30_encoding.md; the witnesses at the end meet the hypotheses of the statements. -/

namespace Sys2Proof.Tests

open Sys2Proof.Machine

/-! ### Helpers -/

/-- A string of `n` bits written as a binary numeral, leftmost first. -/
def bits (n v : Nat) : List Bool := (List.range n).map fun i => v.testBit (n - 1 - i)

/-- Host-driven, released and sampled cycles in the notation of the vectors. -/
def host (n v : Nat) : List Cycle := (bits n v).map hostCycle
def z : List Cycle := [releasedCycle]
def sampled (n v : Nat) : List Cycle := (bits n v).map sampledCycle

/-- The reset state with a line status, and bits the target presents. -/
def pins (d : PinDir) (o : Bool) (line : List Bool) : State := { State.reset with swdioDir := d, swdioOut := o, line := line }

/-- A state with a connection state, an IDCODE, and bits the target presents. -/
def session (c : ConnState) (id : Option Word) (line : List Bool) : State :=
  { State.reset with connState := c, idcode := id, line := line }

/-- Trace, line status, answer. -/
def seen : Host.Outcome State Fault Refusal → Option (List Cycle × (Bool × PinDir × Bool) × Option Reply)
  | .next s => some (s.trace, lineStatus s, s.reply)
  | _ => none

/-- Connection state, IDCODE, answer, number of cycles, counter. -/
def linked : Host.Outcome State Fault Refusal → Option (ConnState × Option Word × Option Reply × Nat × Nat)
  | .next s => some (s.connState, s.idcode, s.reply, s.trace.length, s.ackCount)
  | _ => none

/-- The name of a refusal. -/
def refusal : Host.Outcome State Fault Refusal → Option Refusal
  | .refused r => some r
  | _ => none

/-- The packet decodes to the instruction. -/
def decodes (k : Packet) (i : Instr) : Bool :=
  match decode k with
  | .ok j => decide (j = i)
  | .error _ => false

/-- The packet is no instruction, by name. -/
def rejects (k : Packet) (e : DecodeError) : Bool :=
  match decode k with
  | .ok _ => false
  | .error e' => decide (e' = e)

/-- A wire packet by its wire string. -/
def wire (n v : Nat) (operands : List Nat) : Packet := .wire n (wireNumeral n v) operands

/-! ### WellFormed: one ill-formed term per check -/

/-- Each is refused by the check of its own constructor (R47, R81, R82, R83). -/
theorem test_illFormed :
    (!Instr.wellFormed (.swdRead .dp 0x02 false) &&
      !Instr.wellFormed (.swdWrite .ap 0x100 0 true) &&
      !Instr.wellFormed (.ackOk ⟨.dp, .read, 0x01, false⟩) &&
      !Instr.wellFormed (.ackWait ⟨.dp, .read, 0x02, false⟩) &&
      !Instr.wellFormed (.ackFault ⟨.dp, .write 0, 0x03, false⟩) &&
      !Instr.wellFormed (.ackProtocol0 ⟨.ap, .read, 0x100, false⟩) &&
      !Instr.wellFormed (.ackProtocol3 ⟨.ap, .read, 0xFD, false⟩) &&
      !Instr.wellFormed (.ackProtocol5 ⟨.ap, .read, 0xFE, false⟩) &&
      !Instr.wellFormed (.ackProtocol6 ⟨.ap, .read, 0xFF, false⟩) &&
      !Instr.wellFormed (.ackProtocol7 ⟨.ap, .read, 0x104, true⟩) &&
      !Instr.wellFormed (.setSwdioOut 2) &&
      !Instr.wellFormed (.shiftOut 0 33) &&
      !Instr.wellFormed (.shiftIn 33) &&
      !Instr.wellFormed (.clockIdle 65536 0) &&
      !Instr.wellFormed (.clockIdle 1 3) &&
      !Instr.wellFormed (.setSpeed 4) &&
      !Instr.wellFormed (.rawClock 3 0 1) &&
      !Instr.wellFormed (.rawClock 0 3 1) &&
      !Instr.wellFormed (.rawClock 0 0 65536)) = true := by decide

theorem test_wellFormed_edges :
    (Instr.wellFormed (.swdRead .ap 0xFC true) && Instr.wellFormed (.shiftIn 32) && Instr.wellFormed (.shiftOut 0 0) &&
      Instr.wellFormed (.clockIdle 65535 2) && Instr.wellFormed (.rawClock 2 2 65535) && Instr.wellFormed (.setSpeed 3)) = true :=
    by decide

/-! ### Decode: a word of the spec for every constructor (V-ENC-1 to V-ENC-4, R63, R70, R71, R72, R84) -/

theorem test_decode_swdRead : decodes (.command .swdRead [1, 0xFC, 1]) (.swdRead .ap 0xFC true) = true := by decide

theorem test_decode_swdWrite :
    decodes (.command .swdWrite [0, 0x08, 0xDEADBEEF, 0]) (.swdWrite .dp 0x08 0xDEADBEEF false) = true := by decide

/-- V-ENC-1, every operation byte by its wire string. -/
theorem test_decode_operationBytes :
    (decodes (wire 8 0b10000001 [0, 0x12345678, 1]) (.swdWriteDp0 0 0x12345678 true) &&
      decodes (wire 8 0b10010101 [1, 0x12345678, 1]) (.swdWriteDp4 1 0x12345678 true) &&
      decodes (wire 8 0b10001101 [2, 0x12345678, 1]) (.swdWriteDp8 2 0x12345678 true) &&
      decodes (wire 8 0b10011001 [3, 0x12345678, 1]) (.swdWriteDpC 3 0x12345678 true) &&
      decodes (wire 8 0b10100101 [4, 0]) (.swdReadDp0 4 false) &&
      decodes (wire 8 0b10110001 [5, 1]) (.swdReadDp4 5 true) &&
      decodes (wire 8 0b10101001 [6, 0]) (.swdReadDp8 6 false) &&
      decodes (wire 8 0b10111101 [7, 1]) (.swdReadDpC 7 true) &&
      decodes (wire 8 0b11000101 [8, 0x12345678, 1]) (.swdWriteAp0 8 0x12345678 true) &&
      decodes (wire 8 0b11010001 [9, 0x12345678, 1]) (.swdWriteAp4 9 0x12345678 true) &&
      decodes (wire 8 0b11001001 [10, 0x12345678, 1]) (.swdWriteAp8 10 0x12345678 true) &&
      decodes (wire 8 0b11011101 [11, 0x12345678, 1]) (.swdWriteApC 11 0x12345678 true) &&
      decodes (wire 8 0b11100001 [12, 0]) (.swdReadAp0 12 false) &&
      decodes (wire 8 0b11110101 [13, 1]) (.swdReadAp4 13 true) &&
      decodes (wire 8 0b11101101 [14, 0]) (.swdReadAp8 14 false) &&
      decodes (wire 8 0b11111001 [15, 1]) (.swdReadApC 15 true)) = true := by decide

/-- V-ENC-3, every acknowledge by its wire string. -/
theorem test_decode_acknowledges :
    (decodes (wire 3 0b100 [1, 0, 0x0C, 0xDEADBEEF, 1]) (.ackOk ⟨.ap, .write 0xDEADBEEF, 0x0C, true⟩) &&
      decodes (wire 3 0b010 [1, 0, 0x0C, 0xDEADBEEF, 1]) (.ackWait ⟨.ap, .write 0xDEADBEEF, 0x0C, true⟩) &&
      decodes (wire 3 0b001 [1, 0, 0x0C, 0xDEADBEEF, 1]) (.ackFault ⟨.ap, .write 0xDEADBEEF, 0x0C, true⟩) &&
      decodes (wire 3 0b000 [1, 0, 0x0C, 0xDEADBEEF, 1]) (.ackProtocol0 ⟨.ap, .write 0xDEADBEEF, 0x0C, true⟩) &&
      decodes (wire 3 0b110 [1, 0, 0x0C, 0xDEADBEEF, 1]) (.ackProtocol3 ⟨.ap, .write 0xDEADBEEF, 0x0C, true⟩) &&
      decodes (wire 3 0b101 [1, 0, 0x0C, 0xDEADBEEF, 1]) (.ackProtocol5 ⟨.ap, .write 0xDEADBEEF, 0x0C, true⟩) &&
      decodes (wire 3 0b011 [1, 0, 0x0C, 0xDEADBEEF, 1]) (.ackProtocol6 ⟨.ap, .write 0xDEADBEEF, 0x0C, true⟩) &&
      decodes (wire 3 0b111 [1, 0, 0x0C, 0xDEADBEEF, 1]) (.ackProtocol7 ⟨.ap, .write 0xDEADBEEF, 0x0C, true⟩)) = true :=
    by decide

/-- V-ENC-2: 0x12345678 with Par32 = 1. -/
theorem test_decode_dataOut :
    decodes (wire 33 0b000111100110101000101100010010001 [0]) (.data (.dataOut 0x12345678)) = true := by decide

/-- V-ENC-2: 0x2BA01477, whose Par32 is 0, with the wrong parity bit 1. -/
theorem test_decode_dataIn :
    decodes (wire 33 0b111011100010100000000101110101001 [1]) (.data (.dataIn 0x2BA01477 true)) = true := by decide

theorem test_decode_trn :
    (decodes (.wire 1 0 [0]) (.trn .release) && decodes (.wire 1 0 [1]) (.trn .retake)) = true := by decide

theorem test_decode_idle : decodes (wire 8 0b00000000 []) .idle = true := by decide

/-- V-SEQ-1. -/
theorem test_decode_resetV1 :
    decodes (wireOf (bits 50 (2 ^ 50 - 1) ++ bits 16 0b0111100111100111 ++ bits 50 (2 ^ 50 - 1) ++ bits 2 0) []) .resetV1 = true :=
    by decide +kernel

/-- V-SEQ-2, phase by phase. -/
theorem test_decode_resetV2 :
    decodes (wireOf (bits 50 (2 ^ 50 - 1) ++ bits 8 255 ++ bits 32 0b01001001110011111001000001000110 ++
        bits 32 0b10101001101101001010000101100001 ++ bits 32 0b10010111111101011011101111000111 ++
        bits 32 0b01000101011100000011110110011000 ++ bits 4 0 ++ bits 8 0b01011000 ++ bits 50 (2 ^ 50 - 1) ++
        bits 16 0b0111100111100111 ++ bits 50 (2 ^ 50 - 1) ++ bits 2 0) [])
      .resetV2 = true := by decide +kernel

/-- V-SEQ-3. -/
theorem test_decode_resetV2Jtag :
    decodes (wireOf (bits 50 (2 ^ 50 - 1) ++ bits 31 0b0101110111011101110111011100110 ++ bits 8 255 ++
        bits 32 0b01001001110011111001000001000110 ++
        bits 32 0b10101001101101001010000101100001 ++ bits 32 0b10010111111101011011101111000111 ++
        bits 32 0b01000101011100000011110110011000 ++ bits 4 0 ++ bits 8 0b01011000 ++ bits 50 (2 ^ 50 - 1) ++
        bits 16 0b0111100111100111 ++ bits 50 (2 ^ 50 - 1) ++ bits 2 0) [])
      .resetV2Jtag = true := by decide +kernel

/-- V-SEQ-4. -/
theorem test_decode_swdToDormant :
    decodes (wireOf (bits 50 (2 ^ 50 - 1) ++ bits 16 0b0011110111000111) []) .swdToDormant = true := by decide +kernel

/-- V-ENC-4. -/
theorem test_decode_fixedSequences :
    (decodes (wire 16 0b0111100111100111 []) .seqJtagToSwd &&
      decodes (wire 31 0b0101110111011101110111011100110 []) .seqJtagToDormant &&
      decodes (wire 32 0b01001001110011111001000001000110 []) .seqAlertWord0 &&
      decodes (wire 32 0b10101001101101001010000101100001 []) .seqAlertWord1 &&
      decodes (wire 32 0b10010111111101011011101111000111 []) .seqAlertWord2 &&
      decodes (wire 32 0b01000101011100000011110110011000 []) .seqAlertWord3 &&
      decodes (wire 8 0b01011000 []) .seqSwdActivation &&
      decodes (wire 16 0b0011110111000111 []) .seqSwdToDormant) = true := by decide

/-- R84: the commands by name and operands. -/
theorem test_decode_commands :
    (decodes (.command .setSwdioOut [1]) (.setSwdioOut 1) &&
      decodes (.command .setSwdioIn []) .setSwdioIn &&
      decodes (.command .clockPulse []) .clockPulse &&
      decodes (.command .shiftOut [0xA5, 8]) (.shiftOut 0xA5 8) &&
      decodes (.command .shiftIn [3]) (.shiftIn 3) &&
      decodes (.command .clockIdle [3, 1]) (.clockIdle 3 1) &&
      decodes (.command .turnaroundRelease []) .turnaroundRelease &&
      decodes (.command .turnaroundRetake []) .turnaroundRetake &&
      decodes (.command .setSpeed [3]) (.setSpeed 3) &&
      decodes (.command .rawClock [1, 0, 50]) (.rawClock 1 0 50) &&
      decodes (.command .connect [2, 1]) (.connect .v2 true) &&
      decodes (.command .disconnect []) .disconnect &&
      decodes (.command .abortAndClear []) .abortAndClear &&
      decodes (.command .resetV2 [1]) .resetV2Jtag) = true := by decide

/-- R85: wrong parity (0x85, and 0xC5 with stop = 1 too); stop = 1 alone (0xE5), start = 0, park = 0. -/
theorem test_decode_rejects_parity :
    (rejects (.wire 8 0x85 [0, 0]) .notAnOperationByte && rejects (.wire 8 0xC5 [0, 0]) .notAnOperationByte &&
      rejects (.wire 8 0xE5 [0, 0]) .notAnOperationByte &&
      rejects (.wire 8 0xA4 [0, 0]) .notAnOperationByte && rejects (.wire 8 0x25 [0, 0]) .notAnOperationByte) = true :=
    by decide

/-- A DATA-OUT of wrong parity (R66), a missing operand, an operand that is no code, a width of no row. -/
theorem test_decode_rejects_data :
    (rejects (wire 33 0b000111100110101000101100010010000 [0]) .dataParity && rejects (.wire 33 0 []) .operandCount &&
      rejects (.wire 33 0 [2]) .operandCode && rejects (.wire 5 0 []) .unknownWord) = true := by decide

/-! ### Encoding and decoding functions (V-ENC-1 to V-ENC-3) -/

/-- V-ENC-1: address bits 7:4 do not enter. -/
theorem test_opByte_bank :
    ([opByte .ap .read 0xFC, opByte .ap .read 0xF0, opByte .dp (.write 0) 0x10] : List (BitVec 8)) = [0x9F, 0x87, 0x81] :=
    by decide

/-- V-ENC-2. -/
theorem test_par32 :
    ([0x00000000, 0xFFFFFFFF, 0x00000001, 0x80000000, 0x0000001E, 0x2BA01477, 0x12345678, 0xDEADBEEF, 0x20000000,
      0x50000000, 0xCAFEF00D, 0xF00000A0] : List Word).map par32 =
    [false, false, true, true, false, false, true, false, true, false, false, false] := by decide

/-- V-ENC-3. -/
theorem test_ack_decode :
    (List.range 8).map (fun a => decodeAck Params.default (BitVec.ofNat 3 a)) =
      [.protocol, .ok, .wait, .protocol, .fault, .protocol, .protocol, .protocol] := by decide

/-- V-ENC-3, the alternative assignment of decision D1. -/
theorem test_ack_decode_alternative :
    (List.range 8).map (fun a => decodeAck { Params.default with ackOk := 4, ackFault := 1 } (BitVec.ofNat 3 a)) =
      [.protocol, .fault, .wait, .protocol, .ok, .protocol, .protocol, .protocol] := by decide

/-- R84. -/
theorem test_alias :
    expandAlias Params.default (.clearErrors true) = .swdWrite .dp 0x00 0x1E true ∧
      expandAlias Params.default (.lineHigh 50) = .clockIdle 50 1 := by decide

/-! ### The pin controller (V-PIN) -/

/-- V-PIN-1. -/
theorem test_setSwdioOut :
    seen (exec (.setSwdioOut 1) (pins .inp false [])) =
      some ([],
        (false, .out, true), some .done) := by decide

/-- V-PIN-2. -/
theorem test_setSwdioIn :
    seen (exec .setSwdioIn (pins .out true [])) =
      some ([],
        (false, .inp, true), some .done) := by decide

/-- V-PIN-3. -/
theorem test_clockPulse_driven :
    seen (exec .clockPulse (pins .out false [])) =
      some (host 1 0,
        (false, .out, false), some .done) := by decide

/-- V-PIN-4. -/
theorem test_clockPulse_released :
    seen (exec .clockPulse (pins .inp false [])) =
      some (z,
        (false, .inp, false), some .done) := by decide

/-- V-PIN-5. -/
theorem test_shiftOut_A5 :
    seen (exec (.shiftOut 0xA5 8) (pins .out false [])) =
      some (host 8 0b10100101,
        (false, .out, true), some .done) := by decide

/-- V-PIN-8. -/
theorem test_shiftOut_none :
    seen (exec (.shiftOut 0 0) (pins .inp true [])) =
      some ([],
        (false, .inp, true), some .done) := by decide

/-- V-PIN-9. -/
theorem test_shiftIn_4 :
    seen (exec (.shiftIn 4) (pins .inp false [true, false, true, true])) =
      some (sampled 4 0b1011,
        (false, .inp, false), some (.word 0x0000000D)) := by decide

/-- V-PIN-12. -/
theorem test_shiftIn_driving : refusal (exec (.shiftIn 3) (pins .out false [])) = some .swdioDriven := by decide

/-- V-PIN-13. -/
theorem test_clockIdle_high :
    seen (exec (.clockIdle 3 1) (pins .out false [])) =
      some (host 3 0b111,
        (false, .out, true), some .done) := by decide

/-- V-PIN-15. -/
theorem test_clockIdle_input :
    seen (exec (.clockIdle 3 2) (pins .out false [])) =
      some (z ++ z ++ z,
        (false, .inp, false), some .done) := by decide

/-- V-PIN-17. -/
theorem test_turnaroundRelease :
    seen (exec .turnaroundRelease (pins .out true [])) =
      some (z,
        (false, .inp, true), some .done) := by decide

/-- V-PIN-18. -/
theorem test_turnaroundRetake :
    seen (exec .turnaroundRetake (pins .inp true [])) =
      some (z,
        (false, .out, false), some .done) := by decide

/-- V-PIN-19. -/
theorem test_rawClock_high :
    seen (exec (.rawClock 1 0 50) (pins .out false [])) =
      some (host 50 (2 ^ 50 - 1),
        (false, .out, false), some .done) := by decide

/-- V-PIN-21. -/
theorem test_rawClock_post :
    seen (exec (.rawClock 0 1 0) (pins .out false [])) =
      some ([],
        (false, .out, true), some .done) := by decide

/-- V-PIN-23. -/
theorem test_setSpeed :
    (match exec (.setSpeed 1) { State.reset with speed := .slow } with | .next s => decide (s.speed = .fast) | _ => false) = true :=
    by decide

/-- V-PIN-22. -/
theorem test_invalid_shiftOut :
    seen (exec (.shiftOut 0 33) (pins .inp true [])) =
      some ([],
        (false, .inp, true), some (.error .invalidOperand)) := by decide

/-- V-PIN-22. -/
theorem test_invalid_setSpeed :
    seen (exec (.setSpeed 4) (pins .inp true [])) =
      some ([],
        (false, .inp, true), some (.error .invalidOperand)) := by decide

/-- V-PIN-17, as a field. -/
theorem test_trn_release :
    seen (exec (.trn .release) (pins .out true [])) =
      some (z,
        (false, .inp, true), some .done) := by decide

/-- V-PIN-18, as a field. -/
theorem test_trn_retake :
    seen (exec (.trn .retake) (pins .inp true [])) =
      some (z,
        (false, .out, false), some .done) := by decide

/-- The data phase of V-TR-5: the 33rd bit is the parity. -/
theorem test_dataOut :
    seen (exec (.data (.dataOut 0x20000000)) (pins .out false [])) =
      some (host 33 0b000000000000000000000000000001001,
        (false, .out, true), some .done) := by decide +kernel

/-- The data phase of V-TR-13. -/
theorem test_dataIn :
    seen (exec (.data (.dataIn 0x2BA01477 true)) (pins .inp true [])) =
      some (sampled 33 0b111011100010100000000101110101001,
        (false, .inp, true), some (.error .readParityError)) := by decide

/-- R140: eight low cycles under the default. -/
theorem test_idle :
    seen (exec .idle (pins .inp true [])) =
      some (host 8 0,
        (false, .out, false), some .done) := by decide

/-! ### Transactions (V-TR) -/

/-- V-TR-1. -/
theorem test_swdRead :
    seen (exec (.swdRead .dp 0x00 false) (pins .out false (bits 3 0b100 ++ bits 33 0b111011100010100000000101110101000))) =
      some (host 8 0b10100101 ++ z ++ sampled 3 0b100 ++ sampled 33 0b111011100010100000000101110101000 ++ z ++
        host 8 0,
        (false, .out, false), some (.word 0x2BA01477)) := by decide

/-- V-TR-2. -/
theorem test_swdReadDp0 :
    seen (exec (.swdReadDp0 0 true) (pins .out false (bits 3 0b100 ++ bits 33 0b111011100010100000000101110101000))) =
      some (host 8 0b10100101 ++ z ++ sampled 3 0b100 ++ sampled 33 0b111011100010100000000101110101000 ++ z,
        (false, .out, false), some (.word 0x2BA01477)) := by decide

/-- V-TR-3. -/
theorem test_swdWrite :
    seen (exec (.swdWrite .dp 0x00 0x1E false) (pins .out false (bits 3 0b100))) =
      some (host 8 0b10000001 ++ z ++ sampled 3 0b100 ++ z ++ host 33 0b011110000000000000000000000000000 ++ host 8 0,
        (false, .out, false), some .done) := by decide +kernel

/-- V-TR-4. -/
theorem test_swdWriteDp0 :
    seen (exec (.swdWriteDp0 0 0x1E true) (pins .out false (bits 3 0b100))) =
      some (host 8 0b10000001 ++ z ++ sampled 3 0b100 ++ z ++ host 33 0b011110000000000000000000000000000 ++ host 2 0,
        (false, .out, false), some .done) := by decide +kernel

/-- V-TR-5. -/
theorem test_swdWriteAp4 :
    seen (exec (.swdWriteAp4 0 0x20000000 true) (pins .out false (bits 3 0b100))) =
      some (host 8 0b11010001 ++ z ++ sampled 3 0b100 ++ z ++ host 33 0b000000000000000000000000000001001 ++ host 2 0,
        (false, .out, false), some .done) := by decide +kernel

/-- V-TR-6. -/
theorem test_swdReadApC_retries :
    seen (exec (.swdReadApC 0 false) (pins .out false (bits 12 0b010010010100 ++ bits 33 0b000111100110101000101100010010001))) =
      some (host 8 0b11111001 ++ z ++ sampled 3 0b010 ++ z ++ host 8 0b11111001 ++ z ++ sampled 3 0b010 ++ z ++
        host 8 0b11111001 ++ z ++ sampled 3 0b010 ++ z ++ host 8 0b11111001 ++ z ++ sampled 3 0b100 ++
        sampled 33 0b000111100110101000101100010010001 ++ z ++ host 8 0,
        (false, .out, false), some (.word 0x12345678)) := by decide +kernel

/-- V-TR-8. -/
theorem test_ackFault :
    seen (exec (.ackFault ⟨.ap, .write 0xDEADBEEF, 0x0C, false⟩) (pins .out false [])) =
      some (host 8 0b11011101 ++ z ++ sampled 3 0b001 ++ z ++ host 8 0,
        (false, .out, false), some (.error .faultAcknowledge)) := by decide

/-- V-TR-10. -/
theorem test_ackProtocol7 :
    seen (exec (.ackProtocol7 ⟨.dp, .read, 0x00, false⟩) (pins .out false [])) =
      some (host 8 0b10100101 ++ z ++ sampled 3 0b111 ++ z ++ host 8 0,
        (false, .out, false), some (.error (.badAcknowledge 7))) := by decide

/-- V-TR-11. -/
theorem test_ackProtocol0 :
    seen (exec (.ackProtocol0 ⟨.dp, .read, 0x00, false⟩) (pins .out false [])) =
      some (host 8 0b10100101 ++ z ++ sampled 3 0b000 ++ z ++ host 8 0,
        (false, .out, false), some (.error (.badAcknowledge 0))) := by decide

/-- V-TR-12. -/
theorem test_ackProtocol3 :
    seen (exec (.ackProtocol3 ⟨.dp, .write 0, 0x08, false⟩) (pins .out false [])) =
      some (host 8 0b10001101 ++ z ++ sampled 3 0b110 ++ z ++ host 8 0,
        (false, .out, false), some (.error (.badAcknowledge 3))) := by decide

/-- V-TR-13. -/
theorem test_ackOk_parity :
    seen (exec (.ackOk ⟨.dp, .read, 0x00, false⟩) (pins .out false (bits 33 0b111011100010100000000101110101001))) =
      some (host 8 0b10100101 ++ z ++ sampled 3 0b100 ++ sampled 33 0b111011100010100000000101110101001 ++ z ++
        host 8 0,
        (false, .out, false), some (.error .readParityError)) := by decide

/-- V-TR-14. -/
theorem test_swdReadDp4_exhaustion :
    linked (exec (.swdReadDp4 0 false) (pins .out false (bits 27 0b010010010010010010010010010))) =
      some (.disconnected, none, some (.error .waitAcknowledge), 125, 9) := by decide +kernel

/-- V-TR-16: eight WAITs, the first of them this field's. -/
theorem test_ackWait_last_retry :
    linked (exec (.ackWait ⟨.dp, .read, 0x04, true⟩)
        (pins .out false (bits 24 0b010010010010010010010100 ++ bits 33 0))) =
      some (.disconnected, none, some (.word 0), 150, 9) := by decide +kernel

/-- V-TR-20. -/
theorem test_swdRead_invalid :
    linked (exec (.swdRead .dp 0x02 false) (pins .out false [])) =
      some (.disconnected, none, some (.error .invalidOperand), 0, 0) := by decide

/-- R71, R148. -/
theorem test_ackProtocol5 :
    linked (exec (.ackProtocol5 ⟨.dp, .read, 0x00, true⟩) State.reset) =
      some (.disconnected, none, some (.error (.badAcknowledge 5)), 13, 1) := by decide

/-- V-FSM-9. -/
theorem test_ackProtocol6 :
    linked (exec (.ackProtocol6 ⟨.dp, .read, 0x04, false⟩) (session .connected (some 7) [])) =
      some (.faulted, some 7, some (.error (.badAcknowledge 6)), 21, 1) := by decide

/-! ### Line sequences (V-SEQ) -/

/-- V-SEQ-1. -/
theorem test_resetV1 :
    seen (exec .resetV1 State.reset) =
      some (host 50 (2 ^ 50 - 1) ++ host 16 0b0111100111100111 ++ host 50 (2 ^ 50 - 1) ++ host 2 0,
        (false, .out, false), some .done) := by decide +kernel

/-- V-SEQ-2: the length; its bits are those of `test_decode_resetV2`. -/
theorem test_resetV2 :
    linked (exec .resetV2 State.reset) = some (.disconnected, none, some .done, 316, 0) := by decide +kernel

/-- V-SEQ-3: the length. -/
theorem test_resetV2Jtag :
    linked (exec .resetV2Jtag State.reset) = some (.disconnected, none, some .done, 347, 0) := by decide +kernel

/-- V-SEQ-4. -/
theorem test_swdToDormant :
    seen (exec .swdToDormant State.reset) =
      some (host 50 (2 ^ 50 - 1) ++ host 16 0b0011110111000111,
        (false, .out, false), some .done) := by decide

/-- V-ENC-4. -/
theorem test_seqSwdActivation :
    seen (exec .seqSwdActivation (pins .inp true [])) =
      some (host 8 0b01011000,
        (false, .out, false), some .done) := by decide

/-- V-ENC-4: 31 cycles. -/
theorem test_seqJtagToDormant :
    seen (exec .seqJtagToDormant (pins .out false [])) =
      some (host 31 0b0101110111011101110111011100110,
        (false, .out, false), some .done) := by decide

/-! ### The connection (V-FSM) -/

/-- V-FSM-1. -/
theorem test_connect :
    linked (exec (.connect .v1 false) (session .disconnected none (bits 3 0b100 ++ bits 33 0b111011100010100000000101110101000))) =
      some (.connected, some 0x2BA01477, some (.word 0x2BA01477), 172, 1) := by decide +kernel

/-- V-FSM-4. -/
theorem test_connect_fault :
    linked (exec (.connect .v1 false) (session .connected (some 5) (bits 3 0b001))) =
      some (.disconnected, none, some (.error .faultAcknowledge), 139, 1) := by decide +kernel

/-- V-FSM-5. -/
theorem test_fault_faults :
    linked (exec (.swdReadAp0 0 false) (session .connected (some 5) (bits 3 0b001))) =
      some (.faulted, some 5, some (.error .faultAcknowledge), 21, 1) := by decide

/-- V-FSM-6. -/
theorem test_abortAndClear :
    linked (exec .abortAndClear (session .faulted (some 5) (bits 6 0b100100 ++ bits 33 0b000001010000000000000000000011110))) =
      some (.connected, some 5, some (.word 0xF00000A0), 102, 2) := by decide +kernel

/-- V-FSM-7. -/
theorem test_abortAndClear_fault :
    linked (exec .abortAndClear (session .faulted (some 5) (bits 3 0b001))) =
      some (.faulted, some 5, some (.error .faultAcknowledge), 13, 1) := by decide

/-- V-FSM-13. -/
theorem test_disconnect :
    linked (exec .disconnect (session .faulted (some 5) [])) = some (.disconnected, none, some .done, 0, 0) := by decide

/-- V-FSM-15. -/
theorem test_faulted_read :
    refusal (exec (.swdRead .dp 0x04 false) (session .faulted (some 5) [])) = some .abortWriteOwed := by decide

/-- R236: the ABORT write carries 0x1E. -/
theorem test_faulted_otherData :
    refusal (exec (.swdWrite .dp 0x00 0x1F true) (session .faulted (some 5) [])) = some .abortWriteOwed := by decide

/-! ### The command port and the host's probe -/

theorem test_step_runs :
    linked (step { State.reset with port := [.command .setSwdioIn [], .command .disconnect []] }) =
      some (.disconnected, none, some .done, 0, 0) := by decide

theorem test_table_word_A5 : decodeTableWord 8 0xA5 = some (.swdReadDp0 0 false) := by decide

theorem test_table_word_ack : decodeTableWord 8 0x2 = some (.ackWait ⟨.dp, .write 0, 0, false⟩) := by decide

theorem test_table_word_seq31 : decodeTableWord 32 0x33BBBBBA = some .seqJtagToDormant := by decide

theorem test_table_word_resetV1 :
    decodeTableWord 120 0b1111111111111111111111111111111111111111111111111101111001111001111111111111111111111111111111111111111111111111111100 =
      some .resetV1 := by decide +kernel

theorem test_table_word_refused : decodeTableWord 8 0x85 = none := by decide

theorem test_fetch_word_seq :
    seen (step (State.reset.withFetchWord 16 0xE79E)) =
      some (host 16 0b0111100111100111, (false, .out, true), some .done) := by decide

/-! ### Witnesses: a state and operands that meet the hypotheses of each statement that has any -/

theorem test_witness_RequestBytesAreSixteen :
    (0x0C : BitVec 8).getLsbD 2 = (0xFC : BitVec 8).getLsbD 2 ∧ (0x0C : BitVec 8).getLsbD 3 = (0xFC : BitVec 8).getLsbD 3 :=
    by decide

theorem test_witness_AcknowledgeDecode :
    Params.default.Constrained ∧ Params.Constrained { Params.default with ackOk := 4, ackFault := 1 } := by decide

/-- SetSwdioOutDrives, SetSwdioInReleases, ClockPulseIsOneCycle, WriteBitIsDriveThenPulse, TurnaroundReleaseGivesTheLine,
SetSpeedChangesSpeedOnly, IdleFieldDrivesLow, DataOutFieldSendsParity, ResetV1Trace, ResetV2Trace, SwdToDormantTrace,
ConnectAlwaysEnds, DisconnectForgetsTheSession, AbortAndClearAlwaysEnds: any level, word and code. -/
theorem test_witness_pinCommands_reset :
    State.reset.phase = .idle ∧ State.reset.moreOwed = false ∧ State.reset.Quiet ∧ State.reset.Ready := by decide

theorem test_witness_ShiftOutIsLsbFirst :
    State.reset.Quiet ∧ 0 ≤ 32 ∧ 32 ≤ 32 := by decide

theorem test_witness_ShiftInAssemblesPresentedBits :
    (pins .inp false (bits 32 0xDEADBEEF)).Quiet ∧ (pins .inp false (bits 32 0xDEADBEEF)).swdioDir = .inp ∧
      (bits 32 0xDEADBEEF).length ≤ 32 ∧ (pins .inp false (bits 32 0xDEADBEEF)).line = bits 32 0xDEADBEEF ++ [] :=
    by decide

theorem test_witness_ShiftInHoldsForEveryDraw :
    (pins .inp true []).Quiet ∧ (pins .inp true []).swdioDir = .inp ∧ 32 ≤ 32 := by decide

theorem test_witness_SamplingWhileDrivingIsRefused :
    State.reset.moreOwed = false ∧ State.reset.swdioDir = .out ∧ 32 ≤ 32 := by decide

theorem test_witness_ClockIdleHoldsItsLevel :
    State.reset.Quiet ∧ 0 ≤ 65535 ∧ 65535 ≤ 65535 := by decide

theorem test_witness_TurnaroundRetakeDrivesLow :
    (pins .inp true []).Quiet ∧ (pins .inp true []).swdioDir = .inp := by decide

theorem test_witness_RawClockAppliesPost :
    State.reset.Quiet ∧ 2 ≤ 2 ∧ 2 ≤ 2 ∧ 65535 ≤ 65535 := by decide

theorem test_witness_DataInFieldChecksParity :
    (pins .inp false []).Quiet ∧ (pins .inp false []).swdioDir = .inp ∧ par32 1 = true ∧ par32 0 = false := by decide

theorem test_witness_FixedSequencesShiftOut :
    State.reset.Ready ∧ sequenceOf .seqJtagToSwd = some (0xE79E, 16) ∧
      sequenceOf .seqJtagToDormant = some (0x33BBBBBA, 31) ∧
      sequenceOf .seqAlertWord0 = some (0x6209F392, 32) ∧ sequenceOf .seqAlertWord1 = some (0x86852D95, 32) ∧
      sequenceOf .seqAlertWord2 = some (0xE3DDAFE9, 32) ∧ sequenceOf .seqAlertWord3 = some (0x19BC0EA2, 32) ∧
      sequenceOf .seqSwdActivation = some (0x1A, 8) ∧ sequenceOf .seqSwdToDormant = some (0xE3BC, 16) := by decide

/-- The state of a target that answers a read: `line` first, then the word of V-TR-1 with parity bit `p`. -/
def answering (c : ConnState) (line : List Bool) (p : Bool) : State :=
  session c (some 5) (line ++ (lsbFirst (1 : BitVec 3) 3 ++ dataBits 0x2BA01477 p))

def readFC : Descriptor := ⟨.ap, .read, 0xFC, true⟩
def write0C : Descriptor := ⟨.ap, .write 7, 0x0C, false⟩
def abortWrite : Descriptor := ⟨.dp, .write 0x1E, 0x00, true⟩

/-- A state for the witnesses below. -/
def target1 : State := answering .connected [] false

theorem test_witness_ReadReturnsTheWord_swdRead :
    transactionOf target1.params (.swdRead .ap 0xFC true) = some (readFC, []) ∧
      legalAddr readFC.addr = true ∧
      target1.Ready ∧ target1.params.Constrained ∧ readFC.access = .read ∧ target1.connState ≠ .faulted ∧
      0 ≤ target1.waitRetries ∧
      [] ++ target1.line = waitBits Params.default 0 ++ (lsbFirst Params.default.ackOk 3 ++
        (dataBits 0x2BA01477 (par32 0x2BA01477) ++ [])) := by decide +kernel

/-- A state for the witnesses below. -/
def target2 : State := answering .disconnected (bits 21 0b010010010010010010010) false

theorem test_witness_ReadReturnsTheWord_lastRetry :
    transactionOf target2.params (.ackWait readFC) = some (readFC, lsbFirst Params.default.ackWait 3) ∧
      legalAddr readFC.addr = true ∧
      target2.Ready ∧ target2.params.Constrained ∧ readFC.access = .read ∧ target2.connState ≠ .faulted ∧
      8 ≤ target2.waitRetries ∧
      lsbFirst Params.default.ackWait 3 ++ target2.line =
        waitBits Params.default 8 ++ (lsbFirst Params.default.ackOk 3 ++ (dataBits 0x2BA01477 (par32 0x2BA01477) ++ [])) :=
    by decide +kernel

/-- A state for the witnesses below. -/
def target3 : State := answering .connected [] true

theorem test_witness_ParityMismatchIsAnError :
    transactionOf target3.params (.swdReadApC 15 true) = some (readFC, []) ∧
      legalAddr readFC.addr = true ∧
      target3.Ready ∧ target3.params.Constrained ∧ readFC.access = .read ∧ target3.connState ≠ .faulted ∧
      0 ≤ target3.waitRetries ∧
      [] ++ target3.line = waitBits Params.default 0 ++ (lsbFirst Params.default.ackOk 3 ++
        (dataBits 0x2BA01477 (!par32 0x2BA01477) ++ [])) := by decide +kernel

/-- A state for the witnesses below. -/
def target4 : State := session .disconnected none []

theorem test_witness_WriteSendsItsDataOnce :
    transactionOf target4.params (.ackOk write0C) = some (write0C, lsbFirst Params.default.ackOk 3) ∧
      legalAddr write0C.addr = true ∧
      target4.Ready ∧ target4.params.Constrained ∧ write0C.access = .write 7 ∧ target4.Admits write0C ∧
      0 ≤ target4.waitRetries ∧
      lsbFirst Params.default.ackOk 3 ++ target4.line = waitBits Params.default 0 ++ (lsbFirst Params.default.ackOk 3 ++ []) :=
    by decide

/-- A state for the witnesses below. -/
def target5 : State := session .faulted (some 5) (bits 27 0b010010010010010010010010100)

theorem test_witness_WriteSendsItsDataOnce_faulted :
    transactionOf target5.params (.swdWriteDp0 0 0x1E true) = some (abortWrite, []) ∧
      legalAddr abortWrite.addr = true ∧
      target5.Ready ∧ target5.params.Constrained ∧ abortWrite.access = .write 0x1E ∧ target5.Admits abortWrite ∧
      8 ≤ target5.waitRetries ∧
      [] ++ target5.line = waitBits Params.default 8 ++ (lsbFirst Params.default.ackOk 3 ++ []) := by decide

/-- A state for the witnesses below. -/
def target6 : State := session .connected (some 5) []

theorem test_witness_FaultEndsTheTransaction :
    transactionOf target6.params (.ackFault write0C) = some (write0C, lsbFirst Params.default.ackFault 3) ∧
      legalAddr write0C.addr = true ∧
      target6.Ready ∧ target6.params.Constrained ∧ target6.Admits write0C ∧ 0 ≤ target6.waitRetries ∧
      lsbFirst Params.default.ackFault 3 ++ target6.line = waitBits Params.default 0 ++ (lsbFirst Params.default.ackFault 3 ++ []) :=
    by decide

theorem test_witness_ProtocolCarriesTheRawBits_0 :
    transactionOf target6.params (.ackProtocol0 readFC) = some (readFC, lsbFirst (0 : BitVec 3) 3) ∧
      legalAddr readFC.addr = true ∧
      target6.Ready ∧ target6.params.Constrained ∧ target6.Admits readFC ∧ 0 ≤ target6.waitRetries ∧
      (0 : BitVec 3) ≠ Params.default.ackOk ∧ (0 : BitVec 3) ≠ Params.default.ackWait ∧
      (0 : BitVec 3) ≠ Params.default.ackFault ∧
      lsbFirst (0 : BitVec 3) 3 ++ target6.line = waitBits Params.default 0 ++ (lsbFirst (0 : BitVec 3) 3 ++ []) :=
    by decide

theorem test_witness_ProtocolCarriesTheRawBits_3 :
    transactionOf target6.params (.ackProtocol3 readFC) = some (readFC, lsbFirst (3 : BitVec 3) 3) ∧
      legalAddr readFC.addr = true ∧
      target6.Ready ∧ target6.params.Constrained ∧ target6.Admits readFC ∧ 0 ≤ target6.waitRetries ∧
      (3 : BitVec 3) ≠ Params.default.ackOk ∧ (3 : BitVec 3) ≠ Params.default.ackWait ∧
      (3 : BitVec 3) ≠ Params.default.ackFault ∧
      lsbFirst (3 : BitVec 3) 3 ++ target6.line = waitBits Params.default 0 ++ (lsbFirst (3 : BitVec 3) 3 ++ []) :=
    by decide

theorem test_witness_ProtocolCarriesTheRawBits_5 :
    transactionOf target6.params (.ackProtocol5 readFC) = some (readFC, lsbFirst (5 : BitVec 3) 3) ∧
      legalAddr readFC.addr = true ∧
      target6.Ready ∧ target6.params.Constrained ∧ target6.Admits readFC ∧ 0 ≤ target6.waitRetries ∧
      (5 : BitVec 3) ≠ Params.default.ackOk ∧ (5 : BitVec 3) ≠ Params.default.ackWait ∧
      (5 : BitVec 3) ≠ Params.default.ackFault ∧
      lsbFirst (5 : BitVec 3) 3 ++ target6.line = waitBits Params.default 0 ++ (lsbFirst (5 : BitVec 3) 3 ++ []) :=
    by decide

theorem test_witness_ProtocolCarriesTheRawBits_6 :
    transactionOf target6.params (.ackProtocol6 readFC) = some (readFC, lsbFirst (6 : BitVec 3) 3) ∧
      legalAddr readFC.addr = true ∧
      target6.Ready ∧ target6.params.Constrained ∧ target6.Admits readFC ∧ 0 ≤ target6.waitRetries ∧
      (6 : BitVec 3) ≠ Params.default.ackOk ∧ (6 : BitVec 3) ≠ Params.default.ackWait ∧
      (6 : BitVec 3) ≠ Params.default.ackFault ∧
      lsbFirst (6 : BitVec 3) 3 ++ target6.line = waitBits Params.default 0 ++ (lsbFirst (6 : BitVec 3) 3 ++ []) :=
    by decide

theorem test_witness_ProtocolCarriesTheRawBits_7 :
    transactionOf target6.params (.ackProtocol7 readFC) = some (readFC, lsbFirst (7 : BitVec 3) 3) ∧
      legalAddr readFC.addr = true ∧
      target6.Ready ∧ target6.params.Constrained ∧ target6.Admits readFC ∧ 0 ≤ target6.waitRetries ∧
      (7 : BitVec 3) ≠ Params.default.ackOk ∧ (7 : BitVec 3) ≠ Params.default.ackWait ∧
      (7 : BitVec 3) ≠ Params.default.ackFault ∧
      lsbFirst (7 : BitVec 3) 3 ++ target6.line = waitBits Params.default 0 ++ (lsbFirst (7 : BitVec 3) 3 ++ []) :=
    by decide

/-- A state for the witnesses below. -/
def target7 : State := session .connected (some 5) (bits 27 0b010010010010010010010010010)

/-- Also the last clause of TransactionCycleCounts. -/
theorem test_witness_WaitsAreBounded :
    transactionOf target7.params (.swdRead .ap 0xFC true) = some (readFC, []) ∧
      legalAddr readFC.addr = true ∧
      target7.Ready ∧ target7.params.Constrained ∧ target7.Admits readFC ∧
      [] ++ target7.line = waitBits Params.default (target7.waitRetries + 1) ++ [] :=
    by decide

/-- The read of TransactionCycleCounts with the right and the wrong parity bit; its last clause has the
witness of WaitsAreBounded. -/
theorem test_witness_TransactionCycleCounts_read :
    transactionOf target1.params (.swdRead .ap 0xFC true) = some (readFC, []) ∧
      transactionOf target3.params (.swdReadApC 15 true) = some (readFC, []) ∧ legalAddr readFC.addr = true ∧
      readFC.access = .read ∧ target1.Ready ∧ target3.Ready ∧ target1.Admits readFC ∧ target3.Admits readFC ∧
      Params.default.Constrained ∧
      [] ++ target1.line = waitBits Params.default 0 ++ (lsbFirst Params.default.ackOk 3 ++ (dataBits 0x2BA01477 false ++ [])) ∧
      [] ++ target3.line = waitBits Params.default 0 ++ (lsbFirst Params.default.ackOk 3 ++ (dataBits 0x2BA01477 true ++ [])) :=
    by decide +kernel

theorem test_witness_TransactionCycleCounts_write :
    transactionOf target5.params (.swdWriteDp0 0 0x1E true) = some (abortWrite, []) ∧ legalAddr abortWrite.addr = true ∧
      target5.Ready ∧ target5.params.Constrained ∧ target5.Admits abortWrite ∧ 8 ≤ target5.waitRetries ∧
      abortWrite.access = .write 0x1E ∧
      [] ++ target5.line = waitBits Params.default 8 ++ (lsbFirst Params.default.ackOk 3 ++ []) := by decide

theorem test_witness_TransactionCycleCounts_fault_protocol :
    transactionOf target6.params (.ackFault write0C) = some (write0C, lsbFirst Params.default.ackFault 3) ∧
      transactionOf target6.params (.ackProtocol7 write0C) = some (write0C, lsbFirst (7 : BitVec 3) 3) ∧
      legalAddr write0C.addr = true ∧ target6.Ready ∧ target6.params.Constrained ∧ target6.Admits write0C ∧
      (7 : BitVec 3) ≠ Params.default.ackOk ∧ (7 : BitVec 3) ≠ Params.default.ackWait ∧
      Params.default.ackFault ≠ Params.default.ackOk ∧ Params.default.ackFault ≠ Params.default.ackWait ∧
      lsbFirst (7 : BitVec 3) 3 ++ target6.line = waitBits Params.default 0 ++ (lsbFirst (7 : BitVec 3) 3 ++ []) ∧
      lsbFirst Params.default.ackFault 3 ++ target6.line =
        waitBits Params.default 0 ++ (lsbFirst Params.default.ackFault 3 ++ []) := by decide

theorem test_witness_EveryTransactionEnds :
    transactionOf State.reset.params (.swdWrite .ap 0x0C 7 false) = some (write0C, []) ∧
      legalAddr write0C.addr = true ∧
      State.reset.Ready ∧ State.reset.params.Constrained ∧ State.reset.Admits write0C := by decide

theorem test_witness_OutcomeTracking_read :
    (transactionOf Params.default (.swdRead .ap 0xFC true)).isSome = true ∧
      ∃ t, exec (.swdRead .ap 0xFC true) (session .connected (some 5) []) = .next t := ⟨rfl, _, rfl⟩

theorem test_witness_OutcomeTracking_invalid :
    (transactionOf Params.default (.swdRead .ap 0xFD true)).isSome = true ∧
      ∃ t, exec (.swdRead .ap 0xFD true) (session .connected (some 5) []) = .next t := ⟨rfl, _, rfl⟩

theorem test_witness_OutcomeTracking_fault :
    (transactionOf Params.default (.ackFault ⟨.ap, .read, 0xFC, true⟩)).isSome = true ∧
      ∃ t, exec (.ackFault ⟨.ap, .read, 0xFC, true⟩) (session .connected (some 5) []) = .next t := ⟨rfl, _, rfl⟩

/-- The clause on `abort_and_clear`: its ABORT write answered FAULT. -/
theorem test_witness_OutcomeTracking_abortAndClear :
    (session .connected (some 5) (bits 3 0b001)).connState = .connected ∧
      ∃ t, exec .abortAndClear (session .connected (some 5) (bits 3 0b001)) = .next t ∧
        t.reply = some (.error .faultAcknowledge) := ⟨rfl, _, rfl, by decide⟩

/-- The clause on `abort_and_clear`: both transactions acknowledged OK. -/
theorem test_witness_OutcomeTracking_abortAndClear_ok :
    (answering .connected (bits 3 0b100) false).connState = .connected ∧
      ∃ t, exec .abortAndClear (answering .connected (bits 3 0b100) false) = .next t := ⟨rfl, _, rfl⟩

theorem test_witness_FaultedOwesTheAbortWrite_port :
    transactionOf Params.default (.swdWrite .ap 0x00 0x1E true) = some (⟨.ap, .write 0x1E, 0x00, true⟩, []) ∧
      legalAddr 0x00 = true ∧ (session .faulted (some 5) []).connState = .faulted ∧ Port.ap ≠ .dp := by decide

theorem test_witness_FaultedOwesTheAbortWrite_data :
    transactionOf Params.default (.swdWriteDp0 0 0x1F true) = some (⟨.dp, .write 0x1F, 0x00, true⟩, []) ∧
      legalAddr 0x00 = true ∧ (session .faulted (some 5) []).connState = .faulted ∧
      Access.write 0x1F ≠ .write 0x1E := by decide

/-- The byte of the ABORT write at another address (log entry 8). -/
theorem test_witness_FaultedOwesTheAbortWrite_bank :
    transactionOf Params.default (.swdWriteDp0 1 0x1E true) = some (⟨.dp, .write 0x1E, 0x10, true⟩, []) ∧
      legalAddr 0x10 = true ∧ (session .faulted (some 5) []).connState = .faulted ∧
      0x10 ≠ Params.default.abortAddr.toNat := by decide

theorem test_witness_InvalidOperandChangesNothing :
    Instr.wellFormed (.setSwdioOut 2) = false ∧ Instr.wellFormed (.swdRead .dp 0x02 false) = false := by decide

theorem test_witness_OpenBurstOwesASuccessor :
    ({ State.reset with moreOwed := true } : State).moreOwed = true ∧ Instr.wellFormed (.clockIdle 65535 2) = true ∧
      isPinCommand (.clockIdle 65535 2) = true ∧ Instr.wellFormed .disconnect = true := by decide

theorem test_witness_LineSequencesIgnoreTheTarget :
    (isLineSequence .resetV1 && isLineSequence .resetV2 && isLineSequence .swdToDormant && isLineSequence .seqSwdToDormant) = true :=
    by decide

theorem test_witness_ConnectReadsTheIdcode :
    target1.Ready ∧ target1.params.Constrained ∧ 0 ≤ target1.waitRetries ∧
      target1.line = waitBits Params.default 0 ++ (lsbFirst Params.default.ackOk 3 ++ (dataBits 0x2BA01477 (par32 0x2BA01477) ++ [])) :=
    by decide +kernel

/-- A state for the witnesses below. -/
def target8 : State := answering .faulted (bits 24 0b010010010010010010010010) false

theorem test_witness_ConnectReadsTheIdcode_lastRetry :
    target8.Ready ∧ target8.params.Constrained ∧ 8 ≤ target8.waitRetries ∧
      target8.line = waitBits Params.default 8 ++ (lsbFirst Params.default.ackOk 3 ++ (dataBits 0x2BA01477 (par32 0x2BA01477) ++ [])) :=
    by decide +kernel

/-- A state for the witnesses below. -/
def target9 : State := answering .faulted (bits 3 0b100) false

theorem test_witness_AbortAndClearRecovers :
    target9.Ready ∧ target9.params.Constrained ∧
      target9.line = lsbFirst Params.default.ackOk 3 ++ (lsbFirst Params.default.ackOk 3 ++
        (dataBits 0x2BA01477 (par32 0x2BA01477) ++ [])) := by decide +kernel

/-- A state for the witnesses below. -/
def target10 : State := session .faulted (some 5) (bits 3 0b001)

theorem test_witness_FailingAbortWriteStops_fault :
    target10.Ready ∧ target10.params.Constrained ∧ 0 ≤ target10.waitRetries ∧
      Params.default.ackFault ≠ Params.default.ackOk ∧ Params.default.ackFault ≠ Params.default.ackWait ∧
      target10.line = waitBits Params.default 0 ++ (lsbFirst Params.default.ackFault 3 ++ []) := by decide

/-- Protocol after the last retry. -/
theorem test_witness_FailingAbortWriteStops_protocol :
    (session .connected (some 5) (bits 27 0b010010010010010010010010111)).Ready ∧ Params.default.Constrained ∧
      8 ≤ State.reset.waitRetries ∧ (7 : BitVec 3) ≠ Params.default.ackOk ∧ (7 : BitVec 3) ≠ Params.default.ackWait ∧
      (session .connected (some 5) (bits 27 0b010010010010010010010010111)).line =
        waitBits Params.default 8 ++ (lsbFirst (7 : BitVec 3) 3 ++ []) := by decide

theorem test_witness_FailingAbortWriteStops_waits :
    target7.Ready ∧ target7.params.Constrained ∧
      target7.line = waitBits Params.default (target7.waitRetries + 1) ++ [] := by decide

theorem test_witness_AbortAndClearAlwaysEnds :
    (session .faulted (some 5) []).Ready ∧ (session .faulted (some 5) []).connState = .faulted := by decide

theorem test_witness_EveryStepKeepsTheInvariant :
    ({ State.reset with port := [.command .setSwdioIn []] } : State).Inv ∧ (session .connected (some 5) []).Inv ∧
      ∃ t, step { State.reset with port := [.command .setSwdioIn []] } = .next t := ⟨by decide, by decide, _, rfl⟩

theorem test_witness_StepRunsTheNextCommand_ok :
    ({ State.reset with port := [.wire 16 0xE79E []] } : State).port = .wire 16 0xE79E [] :: [] ∧
      decode (.wire 16 0xE79E []) = .ok .seqJtagToSwd := ⟨rfl, rfl⟩

theorem test_witness_StepRunsTheNextCommand_error :
    ({ State.reset with port := [.wire 8 0x85 []] } : State).port = .wire 8 0x85 [] :: [] ∧
      decode (.wire 8 0x85 []) = .error .notAnOperationByte := ⟨rfl, rfl⟩

/-- Also while a successor is owed (log entry 20). -/
theorem test_witness_StepRunsTheNextCommand_empty :
    State.reset.port = [] ∧ ({ State.reset with moreOwed := true } : State).port = [] := by decide

/-- TraceOnlyGrows, ConfigurationIsConstant, NoCommandFaults, AckCountOnlyGrows. -/
theorem test_witness_everyCommand :
    ∃ t, exec (.swdRead .dp 0x00 false) State.reset = .next t := ⟨_, rfl⟩

theorem test_witness_SpeedIsTimingOnly :
    ∀ c, Instr.clockPulse ≠ .setSpeed c := by simp

theorem test_witness_PinCommandsLeaveTheSession :
    isPinCommand .clockPulse = true ∧ (∃ t, exec .clockPulse State.reset = .next t) ∧
      isLineSequence .resetV1 = true ∧ ∃ t, exec .resetV1 State.reset = .next t := ⟨rfl, ⟨_, rfl⟩, rfl, _, rfl⟩

theorem test_witness_LinkCommandsEndAtRest :
    Instr.wellFormed (.connect .v2 true) = true ∧ ∃ t, exec (.connect .v2 true) State.reset = .next t := ⟨rfl, _, rfl⟩

theorem test_witness_AckCountOnlyGrows :
    ∃ t, exec (.ackProtocol7 ⟨.dp, .read, 0x00, false⟩) State.reset = .next t ∧ t.ackCount ≠ State.reset.ackCount :=
    ⟨_, rfl, by decide⟩

theorem test_witness_ConnectionTransitions_connected :
    (answering .disconnected [] false).connState ≠ .resetting ∧
      (answering .disconnected [] false).connState ≠ .idCodeRead ∧
      ∃ t, exec (.connect .v1 false) (answering .disconnected [] false) = .next t ∧
        t.connState ≠ (answering .disconnected [] false).connState := ⟨by decide, by decide, _, rfl, by decide⟩

theorem test_witness_ConnectionTransitions_faulted :
    (session .connected (some 5) []).connState ≠ .resetting ∧ (session .connected (some 5) []).connState ≠ .idCodeRead ∧
      ∃ t, exec (.ackFault ⟨.ap, .read, 0, false⟩) (session .connected (some 5) []) = .next t ∧
        t.connState ≠ (session .connected (some 5) []).connState := ⟨by decide, by decide, _, rfl, by decide⟩

theorem test_witness_ConnectionTransitions_recovered :
    (answering .faulted (bits 3 0b100) false).connState ≠ .resetting ∧
      (answering .faulted (bits 3 0b100) false).connState ≠ .idCodeRead ∧
      ∃ t, exec (.abortAndClear) (answering .faulted (bits 3 0b100) false) = .next t ∧
        t.connState ≠ (answering .faulted (bits 3 0b100) false).connState := ⟨by decide, by decide, _, rfl, by decide⟩

theorem test_witness_ConnectionTransitions_disconnected :
    (session .faulted (some 5) []).connState ≠ .resetting ∧ (session .faulted (some 5) []).connState ≠ .idCodeRead ∧
      ∃ t, exec (.disconnect) (session .faulted (some 5) []) = .next t ∧
        t.connState ≠ (session .faulted (some 5) []).connState := ⟨by decide, by decide, _, rfl, by decide⟩

end Sys2Proof.Tests
end

section
/-! PROOFS. The operation byte bit by bit and the parity over its bits 1 to 4 (spec/30_encoding.md section 1,
spec/41_link_transaction.md rules R121 and R122). -/

namespace Sys2Proof.Machine

/-! ### Par4 -/

/-- The one fact about `Par4` that both parity clauses rest on: it is its bits' count of ones modulo 2 (the sixteen cases of
R122). -/
theorem par4_toNat : ∀ x y z w : Bool,
    (par4 x y z w).toNat = (x.toNat + y.toNat + z.toNat + w.toNat) % 2 := by
  decide

theorem par4_eq_true_iff_odd (x y z w : Bool) :
    par4 x y z w = true ↔ (x.toNat + y.toNat + z.toNat + w.toNat) % 2 = 1 := by
  rw [← par4_toNat, Bool.toNat_eq_one]

theorem count_with_par4_even (x y z w : Bool) :
    (x.toNat + y.toNat + z.toNat + w.toNat + (par4 x y z w).toNat) % 2 = 0 := by
  rw [par4_toNat]
  omega

/-! ### The operation byte -/

theorem apndpOf_eq_decide (port : Port) : apndpOf port = decide (port = .ap) := by
  cases port <;> rfl

theorem rnwOf_eq_decide (access : Access) : rnwOf access = decide (access = .read) := by
  cases access <;> simp [rnwOf]

/-- Bit `i` of the operation byte is entry `i` of the row of R121, read from bit 0 up. -/
theorem opByte_getLsbD (port : Port) (access : Access) (addr : BitVec 8) (i : Nat) :
    (opByte port access addr).getLsbD i = (decide (i < 8) &&
      [true, apndpOf port, rnwOf access, addr.getLsbD 2, addr.getLsbD 3,
        par4 (apndpOf port) (rnwOf access) (addr.getLsbD 2) (addr.getLsbD 3), false, true].getD i false) :=
  ofBits_getLsbD 8 _ i

/-- Settles O1: the eight bits are those of R121, and the count of ones over bits 1 to 5 is even by what `Par4` is. -/
theorem operationByteBits : Obligations.OperationByteBits := by
  intro port access addr b
  have hbit (i : Nat) := opByte_getLsbD port access addr i
  have h1 : b.getLsbD 1 = apndpOf port := hbit 1
  have h2 : b.getLsbD 2 = rnwOf access := hbit 2
  have h3 : b.getLsbD 3 = addr.getLsbD 2 := hbit 3
  have h4 : b.getLsbD 4 = addr.getLsbD 3 := hbit 4
  have h5 : b.getLsbD 5 = par4 (b.getLsbD 1) (b.getLsbD 2) (b.getLsbD 3) (b.getLsbD 4) := by
    rw [h1, h2, h3, h4]
    exact hbit 5
  have heven := count_with_par4_even (b.getLsbD 1) (b.getLsbD 2) (b.getLsbD 3) (b.getLsbD 4)
  rw [← h5] at heven
  exact ⟨hbit 0, h1.trans (apndpOf_eq_decide port), h2.trans (rnwOf_eq_decide access), h3, h4, h5, hbit 6, hbit 7, heven,
    par4_eq_true_iff_odd⟩

end Sys2Proof.Machine
end

section
/-! PROOFS. The pin commands that set the line state (spec/40_pin_driver.md rules R91 and R92) and the turnaround that releases
the line (its rule R104). -/

namespace Sys2Proof.Machine

/-! ### Setting the line state without a cycle -/

/-- A command that does not clock is accepted whatever the level of SWCLK. -/
theorem acceptPin_idle {s : State} (go : State) (hp : s.phase = .idle) (hm : s.moreOwed = false) :
    acceptPin false s go = .next go := by
  simp [acceptPin, accept, hp, hm]

/-- The level codes of `set_swdio_out`: 1 is High and 0 is Low (R81, R91). -/
theorem outLevelOf_bit (b : Bool) : outLevelOf (if b then 1 else 0) = some b := by
  cases b <;> rfl

theorem execSetSwdioOut_of_level {level : Nat} {b : Bool} (s : State) (h : outLevelOf level = some b) :
    execSetSwdioOut level s = acceptPin false s (answer .done (drive b s)) := by
  simp only [execSetSwdioOut, h]

/-- Settles O9: both codes are levels, and driving is the whole action. -/
theorem setSwdioOutDrives : Obligations.SetSwdioOutDrives := by
  intro s b hp hm
  calc exec (.setSwdioOut (if b then 1 else 0)) s
      = acceptPin false s (answer .done (drive b s)) := execSetSwdioOut_of_level s (outLevelOf_bit b)
    _ = .next (answer .done (drive b s)) := acceptPin_idle _ hp hm

/-- Settles O10: releasing, which keeps `swdio_out`, is the whole action. -/
theorem setSwdioInReleases : Obligations.SetSwdioInReleases := by
  intro s hp hm
  exact acceptPin_idle (answer .done (release s)) hp hm

/-! ### The turnaround that releases the line -/

/-- With SWCLK at rest the pulse of the turnaround leaves it as it was. -/
theorem turnaroundRelease_of_swclk_low {s : State} (h : s.swclk = false) :
    turnaroundRelease s = { s with swdioDir := .inp, trace := s.trace ++ [releasedCycle] } := by
  rw [turnaroundRelease_eq, ← h]

/-- Settles O18: the release comes before the one pulse, so its cycle is released from either line state. -/
theorem turnaroundReleaseGivesTheLine : Obligations.TurnaroundReleaseGivesTheLine := by
  intro s hq
  have ⟨⟨_, hclk⟩, _⟩ := hq
  calc exec .turnaroundRelease s
      = .next (answer .done (turnaroundRelease s)) := acceptPin_quiet true s _ hq
    _ = .next (answer .done { s with swdioDir := .inp, trace := s.trace ++ [releasedCycle] }) := by
        rw [turnaroundRelease_of_swclk_low hclk]

end Sys2Proof.Machine
end

section
/-! PROOFS. The acknowledge decode (spec/41_link_transaction.md rule R127). -/

namespace Sys2Proof.Machine

/-- Settles O5: an acknowledge is one of the three codes or none of them. The value of the decode is known in each of the four
cases, and as the codes are distinct (R6) no two cases overlap. -/
theorem acknowledgeDecode : Obligations.AcknowledgeDecode := by
  intro p a hc
  obtain ⟨-, -, -, -, -, hokWait, hokFault, hwaitFault, -⟩ := hc
  by_cases hok : a = p.ackOk
  · subst hok
    simp [decodeAck_ok, hokWait, hokFault]
  by_cases hwait : a = p.ackWait
  · subst hwait
    simp [decodeAck_wait p hokWait, hok, hwaitFault]
  by_cases hfault : a = p.ackFault
  · subst hfault
    simp [decodeAck_fault p hokFault hwaitFault, hok, hwait]
  · simp [decodeAck_protocol p a hok hwait hfault, hok, hwait, hfault]

end Sys2Proof.Machine
end

section
/-! PROOFS. The command `disconnect` (spec/43_connection_fsm.md rule R187). -/

namespace Sys2Proof.Machine

/-- Settles O45: `disconnect` does not clock, so it is accepted in every idle state without an open burst, and dropping the
connection is the whole action. -/
theorem disconnectForgetsTheSession : Obligations.DisconnectForgetsTheSession := by
  intro s hp hm
  calc exec .disconnect s
      = .next (answer .done (dropConnection s)) := acceptPin_idle _ hp hm
    _ = .next { s with connState := .disconnected, idcode := none, reply := some .done } := rfl

end Sys2Proof.Machine
end

section
/-! PROOFS. The encodings (spec/30_encoding.md): the bits of a numeral, the operation bytes, the data phase's parity, and the
decoder against the encoder. -/

namespace Sys2Proof.Machine

/-! ### Bits and numerals -/

/-- The numeral of all of a word's bits is the word (R7). -/
@[simp] theorem natOfBits_lsbFirst {w : Nat} (v : BitVec w) : natOfBits (lsbFirst v w) = v.toNat := by
  have hlt : natOfBits (lsbFirst v w) < 2 ^ w := by simpa using natOfBits_lt (lsbFirst v w)
  have hword : (ofBits w (lsbFirst v w)).toNat = v.toNat := by rw [ofBits_lsbFirst]
  rwa [ofBits, BitVec.toNat_ofNat, Nat.mod_eq_of_lt hlt] at hword

/-! ### The sixteen operation bytes (R63) -/

/-- The byte by the four bits that enter it (R61, R64). -/
theorem opByte_congr {port : Port} {access access' : Access} {a b : BitVec 8} (hrnw : rnwOf access = rnwOf access')
    (h2 : a.getLsbD 2 = b.getLsbD 2) (h3 : a.getLsbD 3 = b.getLsbD 3) : opByte port access a = opByte port access' b := by
  simp only [opByte, hrnw, h2, h3]

/-- Settles O2: the data of a write does not enter the byte, so each entry is one numeral. -/
theorem operationByteTable : Obligations.OperationByteTable := by
  refine ⟨fun d => ?_, by decide⟩
  have hdata (port : Port) (a : BitVec 8) : opByte port (.write d) a = opByte port (.write 0) a := opByte_congr rfl rfl rfl
  simp only [hdata]
  decide

/-- An operation byte by its four free bits, out of the table's sixteen. -/
theorem opByte_row_mem : ∀ apndp rnw a2 a3 : Bool,
    ofBits 8 [true, apndp, rnw, a2, a3, par4 apndp rnw a2 a3, false, true] ∈
      ([0x81, 0xA9, 0xB1, 0x99, 0xA5, 0x8D, 0x95, 0xBD, 0xA3, 0x8B, 0x93, 0xBB, 0x87, 0xAF, 0xB7, 0x9F] : List (BitVec 8)) := by
  decide

/-- Settles O3: the byte is a function of APnDP, RnW, A[2] and A[3] alone, and their sixteen values give the table. -/
theorem requestBytesAreSixteen : Obligations.RequestBytesAreSixteen :=
  ⟨fun _ _ _ => opByte_row_mem _ _ _ _,
    fun _ _ _ h2 h3 => ⟨opByte_congr rfl h2 h3, fun _ _ => opByte_congr rfl h2 h3⟩⟩

/-! ### The parity of a data phase -/

theorem xor_toNat : ∀ a b : Bool, (xor a b).toNat = (a.toNat + b.toNat) % 2 := by
  decide

/-- The XOR of bits is their count of ones modulo 2. -/
theorem parity_toNat (bs : List Bool) : (parity bs).toNat = bs.count true % 2 := by
  induction bs with
  | nil => rfl
  | cons b bs ih =>
    rw [show parity (b :: bs) = xor b (parity bs) from rfl, xor_toNat, ih]
    cases b <;> simp [Nat.add_comm]

/-- The 33 bits hold an even number of ones exactly with the word's own parity bit. -/
theorem dataBits_count_even_iff (v : Word) (p : Bool) : (dataBits v p).count true % 2 = 0 ↔ par32 v = p := by
  have hsplit : parity (dataBits v p) = xor (par32 v) p := by
    rw [dataBits, parity_append, par32]
    simp [parity]
  rw [← parity_toNat, hsplit, Bool.toNat_eq_zero, bne_eq_false_iff_eq]

/-- Settles O4: both clauses ask when the 33 bits are even, which is when the bit sent is the word's parity. -/
theorem dataPhaseParityIsEven : Obligations.DataPhaseParityIsEven := by
  intro v p
  refine ⟨(dataBits_count_even_iff v _).mpr rfl, ?_⟩
  rw [dataBits_count_even_iff, parityHolds, beq_iff_eq]

/-! ### Operand words -/

@[simp] theorem boolOf_toNat (b : Bool) : boolOf b.toNat = some b := by cases b <;> rfl

@[simp] theorem portOf_portCode (port : Port) : portOf (portCode port) = some port := by cases port <;> rfl

@[simp] theorem wordOf_toNat (v : Word) : wordOf v.toNat = some v := by
  rw [wordOf, if_pos v.isLt, BitVec.ofNat_toNat, BitVec.setWidth_eq]

@[simp] theorem bankOf_toNat (bank : BitVec 4) : bankOf bank.toNat = some bank := by
  rw [bankOf, if_pos bank.isLt, BitVec.ofNat_toNat, BitVec.setWidth_eq]

@[simp] theorem accessOf_codes (access : Access) : accessOf (rnwOf access).toNat (dataCode access) = some access := by
  cases access with
  | read => rfl
  | write data => simp [accessOf, rnwOf, dataCode]

@[simp] theorem readRow_operands (c : BitVec 4 → Bool → Instr) (bank : BitVec 4) (more : Bool) :
    readRow c [bank.toNat, more.toNat] = .ok (c bank more) := by
  simp [readRow, orCode]

@[simp] theorem writeRow_operands (c : BitVec 4 → Word → Bool → Instr) (bank : BitVec 4) (data : Word) (more : Bool) :
    writeRow c [bank.toNat, data.toNat, more.toNat] = .ok (c bank data more) := by
  simp [writeRow, orCode]

@[simp] theorem ackRow_operands (c : Descriptor → Instr) (d : Descriptor) :
    ackRow c [portCode d.port, (rnwOf d.access).toNat, d.addr, dataCode d.access, d.more.toNat] = .ok (c d) := by
  simp [ackRow, orCode]

/-! ### Wire words -/

/-- Bits 3 and 2 of an operation byte's address are those of the row's nibble (R63). -/
theorem opByte_addrOf (port : Port) (access : Access) (bank : BitVec 4) {low : Nat} (hlow : low < 16) :
    opByte port access (BitVec.ofNat 8 (addrOf bank low)) = opByte port access (BitVec.ofNat 8 low) := by
  have hbit (i : Nat) (hi : i < 4) :
      (BitVec.ofNat 8 (addrOf bank low)).getLsbD i = (BitVec.ofNat 8 low).getLsbD i := by
    rw [BitVec.getLsbD_ofNat, BitVec.getLsbD_ofNat, addrOf, Nat.testBit_two_pow_mul_add (i := 4) _ hlow, if_pos hi]
  exact opByte_congr rfl (hbit 2 (by decide)) (hbit 3 (by decide))

/-- A read row's packet is its operation byte with bits 7:4 of the address in an operand word. -/
theorem encodeReadRow_eq (port : Port) (bank : BitVec 4) (more : Bool) {low : Nat} (hlow : low < 16) :
    encodeReadRow port low bank more =
      .wire 8 (opByte port .read (BitVec.ofNat 8 low)).toNat [bank.toNat, more.toNat] := by
  rw [encodeReadRow, wireOf, lsbFirst_length, natOfBits_lsbFirst, opByte_addrOf port .read bank hlow]

/-- A write row's packet; the data does not enter the byte. -/
theorem encodeWriteRow_eq (port : Port) (bank : BitVec 4) (data : Word) (more : Bool) {low : Nat} (hlow : low < 16) :
    encodeWriteRow port low bank data more =
      .wire 8 (opByte port (.write 0) (BitVec.ofNat 8 low)).toNat [bank.toNat, data.toNat, more.toNat] := by
  rw [encodeWriteRow, wireOf, lsbFirst_length, natOfBits_lsbFirst, opByte_addrOf port _ bank hlow,
    opByte_congr (access' := .write 0) (access := .write data) rfl rfl rfl]

/-- A read row decodes to the instruction of the table's entry for its byte. -/
theorem decode_encodeReadRow {port : Port} {low byte : Nat} (c : BitVec 4 → Bool → Instr) (hlow : low < 16)
    (hbyte : (opByte port .read (BitVec.ofNat 8 low)).toNat = byte) (hrow : ∀ ops, decodeByte byte ops = readRow c ops)
    (bank : BitVec 4) (more : Bool) :
    decode (encodeReadRow port low bank more) = .ok (c bank more) := by
  rw [encodeReadRow_eq port bank more hlow, hbyte, ← readRow_operands c bank more, ← hrow]
  rfl

/-- A write row decodes to the instruction of the table's entry for its byte. -/
theorem decode_encodeWriteRow {port : Port} {low byte : Nat} (c : BitVec 4 → Word → Bool → Instr) (hlow : low < 16)
    (hbyte : (opByte port (.write 0) (BitVec.ofNat 8 low)).toNat = byte) (hrow : ∀ ops, decodeByte byte ops = writeRow c ops)
    (bank : BitVec 4) (data : Word)
    (more : Bool) : decode (encodeWriteRow port low bank data more) = .ok (c bank data more) := by
  rw [encodeWriteRow_eq port bank data more hlow, hbyte, ← writeRow_operands c bank data more, ← hrow]
  rfl

/-- The word of a DATA packet, the data below bit 32 and the parity bit in it, is taken apart again. -/
theorem dataPacket_fields (data : Word) (p : Bool) :
    BitVec.ofNat 32 (data.toNat + 2 ^ 32 * p.toNat) = data ∧ (data.toNat + 2 ^ 32 * p.toNat).testBit 32 = p ∧
      data.toNat + 2 ^ 32 * p.toNat < 2 ^ 33 := by
  refine ⟨?_, ?_, ?_⟩
  · apply BitVec.eq_of_toNat_eq
    rw [BitVec.toNat_ofNat, Nat.add_mul_mod_self_left, Nat.mod_eq_of_lt data.isLt]
  · rw [Nat.add_comm, Nat.testBit_two_pow_mul_add _ data.isLt]
    cases p <;> rfl
  · have := data.isLt
    have := p.toNat_lt
    omega

theorem decode_dataField (f : DataField) : decode (encode (.data f)) = .ok (.data f) := by
  cases f with
  | dataOut data =>
    obtain ⟨hword, hpar, hlt⟩ := dataPacket_fields data (par32 data)
    show decodeData _ [0] = _
    rw [decodeData, if_neg (Nat.not_le.mpr hlt), hword, hpar]
    simp
  | dataIn data p =>
    obtain ⟨hword, hpar, hlt⟩ := dataPacket_fields data p
    show decodeData _ [1] = _
    rw [decodeData, if_neg (Nat.not_le.mpr hlt), hword, hpar]
    simp

/-! ### Line sequences: the encoder's phases give the table's wire strings (R161, R164, R168) -/

theorem encode_resetV1 : encode .resetV1 = .wire 118 tableResetV1 [] := by decide +kernel
theorem encode_resetV2 : encode .resetV2 = .wire 316 tableResetV2 [] := by decide +kernel
theorem encode_resetV2Jtag : encode .resetV2Jtag = .wire 347 tableResetV2Jtag [] := by decide +kernel
theorem encode_swdToDormant : encode .swdToDormant = .wire 66 tableSwdToDormant [] := by decide +kernel

/-- Settles O6: every row's packet is its table entry with the operands' codes, and every code is read back. -/
theorem decodeOfEncode : Obligations.DecodeOfEncode := by
  intro i
  cases i with
  | swdRead port addr more => simp [encode, decode, decodeCommand, orCode]
  | swdWrite port addr data more => simp [encode, decode, decodeCommand, orCode]
  | swdWriteDp0 => exact decode_encodeWriteRow .swdWriteDp0 (byte := 0x81) (by decide) (by decide) (fun _ => rfl) _ _ _
  | swdWriteDp4 => exact decode_encodeWriteRow .swdWriteDp4 (byte := 0xA9) (by decide) (by decide) (fun _ => rfl) _ _ _
  | swdWriteDp8 => exact decode_encodeWriteRow .swdWriteDp8 (byte := 0xB1) (by decide) (by decide) (fun _ => rfl) _ _ _
  | swdWriteDpC => exact decode_encodeWriteRow .swdWriteDpC (byte := 0x99) (by decide) (by decide) (fun _ => rfl) _ _ _
  | swdReadDp0 => exact decode_encodeReadRow .swdReadDp0 (byte := 0xA5) (by decide) (by decide) (fun _ => rfl) _ _
  | swdReadDp4 => exact decode_encodeReadRow .swdReadDp4 (byte := 0x8D) (by decide) (by decide) (fun _ => rfl) _ _
  | swdReadDp8 => exact decode_encodeReadRow .swdReadDp8 (byte := 0x95) (by decide) (by decide) (fun _ => rfl) _ _
  | swdReadDpC => exact decode_encodeReadRow .swdReadDpC (byte := 0xBD) (by decide) (by decide) (fun _ => rfl) _ _
  | swdWriteAp0 => exact decode_encodeWriteRow .swdWriteAp0 (byte := 0xA3) (by decide) (by decide) (fun _ => rfl) _ _ _
  | swdWriteAp4 => exact decode_encodeWriteRow .swdWriteAp4 (byte := 0x8B) (by decide) (by decide) (fun _ => rfl) _ _ _
  | swdWriteAp8 => exact decode_encodeWriteRow .swdWriteAp8 (byte := 0x93) (by decide) (by decide) (fun _ => rfl) _ _ _
  | swdWriteApC => exact decode_encodeWriteRow .swdWriteApC (byte := 0xBB) (by decide) (by decide) (fun _ => rfl) _ _ _
  | swdReadAp0 => exact decode_encodeReadRow .swdReadAp0 (byte := 0x87) (by decide) (by decide) (fun _ => rfl) _ _
  | swdReadAp4 => exact decode_encodeReadRow .swdReadAp4 (byte := 0xAF) (by decide) (by decide) (fun _ => rfl) _ _
  | swdReadAp8 => exact decode_encodeReadRow .swdReadAp8 (byte := 0xB7) (by decide) (by decide) (fun _ => rfl) _ _
  | swdReadApC => exact decode_encodeReadRow .swdReadApC (byte := 0x9F) (by decide) (by decide) (fun _ => rfl) _ _
  | ackOk d => exact ackRow_operands .ackOk d
  | ackWait d => exact ackRow_operands .ackWait d
  | ackFault d => exact ackRow_operands .ackFault d
  | ackProtocol0 d => exact ackRow_operands .ackProtocol0 d
  | ackProtocol3 d => exact ackRow_operands .ackProtocol3 d
  | ackProtocol5 d => exact ackRow_operands .ackProtocol5 d
  | ackProtocol6 d => exact ackRow_operands .ackProtocol6 d
  | ackProtocol7 d => exact ackRow_operands .ackProtocol7 d
  | data f => exact decode_dataField f
  | trn k => cases k <;> rfl
  | shiftOut bits n => simp [encode, decode, decodeCommand, orCode]
  | connect kind jtag => cases kind <;> simp [encode, decode, decodeCommand, orCode, resetKindOf]
  | resetV1 => simp [encode_resetV1, decode, decodeWire, plainRow]
  | resetV2 => simp [encode_resetV2, decode, decodeWire, plainRow]
  | resetV2Jtag => simp [encode_resetV2Jtag, decode, decodeWire, plainRow]
  | swdToDormant => simp [encode_swdToDormant, decode, decodeWire, plainRow]
  | _ => rfl

/-- Settles O7: each word is compared with the literals of its width's table. -/
theorem specWordsDecode : Obligations.SpecWordsDecode := by
  exact ⟨rfl, rfl, rfl, rfl, rfl, rfl, rfl, rfl⟩

/-- Settles O8: ten closed facts about numerals. -/
theorem fixedSequenceWireStrings : Obligations.FixedSequenceWireStrings := by
  unfold Obligations.FixedSequenceWireStrings
  decide

end Sys2Proof.Machine
end

section
/-! PROOFS. The pin commands and the wire fields made with them, and the fixed sequences (spec/40_pin_driver.md,
spec/30_encoding.md sections 3 to 5). -/

namespace Sys2Proof.Machine

/-! ### Acceptance, by the operands -/

theorem execShiftOut_of_legal {n : Nat} (v : Word) (s : State) (hn : legalShift n = true) :
    execShiftOut v n s = acceptPin (decide (n ≠ 0)) s (answer .done (shiftOut v n s)) := if_pos hn

theorem execShiftIn_of_legal {n : Nat} (s : State) (hn : legalShift n = true) :
    execShiftIn n s = acceptReleased (decide (n ≠ 0)) s (answer (.word (shiftInValue n s)) (shiftIn n s)) := if_pos hn

theorem execClockIdle_of_level {n level : Nat} {l : Level} (s : State) (hl : levelOf level = some l)
    (hn : legalCount n = true) :
    execClockIdle n level s = acceptPin (decide (n ≠ 0)) s (answer .done (clockIdle n l s)) := by
  simp only [execClockIdle, hl, if_pos hn]

theorem execRawClock_of_levels {level post count : Nat} {l q : Level} (s : State) (hl : levelOf level = some l)
    (hq : levelOf post = some q) (hn : legalCount count = true) :
    execRawClock level post count s =
      acceptPin (decide (count ≠ 0)) s (answer .done (setLevel q (clockIdle count l s))) := by
  simp only [execRawClock, hl, hq, if_pos hn]

theorem execSetSpeed_of_code {code : Nat} {sp : Speed} (s : State) (h : speedOf code = some sp) :
    execSetSpeed code s = acceptPin false s (answer .done { s with speed := sp }) := by
  simp only [execSetSpeed, h]

theorem legalShift_of_le {n : Nat} (h : n ≤ 32) : legalShift n = true := decide_eq_true h

theorem legalCount_of_le {n : Nat} (h : n ≤ 65535) : legalCount n = true := decide_eq_true h

/-- The three level codes (R81). -/
theorem levelOf_of_le_two {code : Nat} (h : code ≤ 2) :
    (code = 0 ∧ levelOf code = some .low) ∨ (code = 1 ∧ levelOf code = some .high) ∨
      (code = 2 ∧ levelOf code = some .input) := by
  interval_cases code <;> decide

/-! ### Pulses and host-driven bits -/

/-- The cycle of a pulse by the line state (R42, R93). -/
theorem pulseCycle_eq (s : State) :
    (⟨holdOf s, none⟩ : Cycle) = if s.swdioDir = .inp then releasedCycle else hostCycle s.swdioOut := by
  cases h : s.swdioDir <;> simp [holdOf, h, releasedCycle, hostCycle]

/-- Settles O11: SWCLK, low before, is low again after the two edges of the pulse. -/
theorem clockPulseIsOneCycle : Obligations.ClockPulseIsOneCycle := by
  intro s hq
  have ⟨⟨_, hclk⟩, _⟩ := hq
  calc exec .clockPulse s
      = .next (answer .done (pulse s)) := acceptPin_quiet true s _ hq
    _ = _ := by rw [pulse_eq, pulseCycle_eq]; simp [answer, hclk]

/-- A one-bit `shift_out` is one host-driven bit (R94, R96). -/
theorem shiftOut_bit (b : Bool) (s : State) : shiftOut (if b then 1 else 0) 1 s = pulse (drive b s) := by
  have hbits : lsbFirst (if b then 1 else 0 : Word) 1 = [b] := by cases b <;> decide
  rw [shiftOut, hbits]
  rfl

/-- Settles O12: both ways are `pulse` after `drive`; the answer between them is overwritten. -/
theorem writeBitIsDriveThenPulse : Obligations.WriteBitIsDriveThenPulse := by
  intro s b hq
  have ⟨⟨hp, hclk⟩, hm⟩ := hq
  refine ⟨answer .done (drive b s), answer .done (pulse (drive b s)), setSwdioOutDrives s b hp hm, hclk, ?_, ?_, ?_,
    rfl, rfl, rfl⟩
  · exact acceptPin_quiet true _ _ hq
  · rw [← shiftOut_bit]
    exact acceptPin_quiet true s _ hq
  · rfl

/-- Settles O13: nothing at all for no bits, and else one cycle a bit with the last level kept. -/
theorem shiftOutIsLsbFirst : Obligations.ShiftOutIsLsbFirst := by
  intro s v n hq hn
  have ⟨⟨_, hclk⟩, _⟩ := hq
  have hx : exec (.shiftOut v n) s = .next (answer .done (shiftOut v n s)) :=
    (execShiftOut_of_legal v s (legalShift_of_le hn)).trans (acceptPin_quiet _ s _ hq)
  rw [hx]
  cases n with
  | zero => rfl
  | succ n =>
    rw [shiftOut_eq]
    simp [answer, shiftRun, lsbFirst, Function.comp_def, hclk]

/-! ### Sampled bits -/

theorem sampleCycles_add (m n : Nat) (s : State) : sampleCycles (m + n) s = sampleCycles n (sampleCycles m s) := by
  induction m generalizing s with
  | zero => simp [sampleCycles]
  | succ m ih => rw [Nat.succ_add, sampleCycles, ih, sampleCycles]

/-- Sampling with SWCLK at rest: the trace and the environment's bits change (R97). -/
theorem shiftIn_of_swclk_low (n : Nat) {s : State} (hclk : s.swclk = false) :
    shiftIn n s = { s with trace := s.trace ++ (sampledBits n s).map sampledCycle, line := s.line.drop n,
                           draws := s.draws + n } := by
  rw [shiftIn, sampleCycles_eq]
  simp [hclk]

/-- `shift_in` in the terms of the bits sampled (R97). -/
theorem exec_shiftIn {s : State} {n : Nat} (hq : s.Quiet) (hd : s.swdioDir = .inp) (hn : n ≤ 32) :
    exec (.shiftIn n) s = .next { s with
      trace := s.trace ++ (sampledBits n s).map sampledCycle, line := s.line.drop n, draws := s.draws + n,
      reply := some (.word (ofBits 32 (sampledBits n s))) } := by
  have ⟨⟨_, hclk⟩, _⟩ := hq
  calc exec (.shiftIn n) s
      = acceptReleased _ s (answer (.word (shiftInValue n s)) (shiftIn n s)) :=
        execShiftIn_of_legal s (legalShift_of_le hn)
    _ = .next (answer (.word (shiftInValue n s)) (shiftIn n s)) := acceptReleased_quiet _ s _ hq hd
    _ = _ := by rw [shiftIn_of_swclk_low n hclk]; rfl

/-- Settles O14: the bits sampled are those presented, and bit `i` of the assembled word is entry `i`. -/
theorem shiftInAssemblesPresentedBits : Obligations.ShiftInAssemblesPresentedBits := by
  intro s bs rest hq hd hlen hline
  refine ⟨ofBits 32 bs, fun i => ?_, ?_⟩
  · rw [ofBits_getLsbD]
    by_cases hi : i < 32
    · simp [hi]
    · rw [List.getD_eq_default _ _ (show bs.length ≤ i by omega)]
      simp [hi]
  · rw [exec_shiftIn hq hd hlen, sampledBits_of_line bs rest s hline, hline, List.drop_left]

/-- Settles O15: the bits sampled are the list. -/
theorem shiftInHoldsForEveryDraw : Obligations.ShiftInHoldsForEveryDraw :=
  fun s n hq hd hn => ⟨sampledBits n s, sampledBits_length n s, exec_shiftIn hq hd hn⟩

theorem acceptReleased_driven {s : State} (clocks : Bool) (go : State) (hm : s.moreOwed = false) (hd : s.swdioDir = .out) :
    acceptReleased clocks s go = .refused .swdioDriven := by
  simp [acceptReleased, hm, hd]

/-- Settles O16: the four meanings share the one check. -/
theorem samplingWhileDrivingIsRefused : Obligations.SamplingWhileDrivingIsRefused := by
  intro s n v p hm hd hn
  refine ⟨?_, acceptReleased_driven _ _ hm hd, acceptReleased_driven _ _ hm hd, acceptReleased_driven _ _ hm hd⟩
  exact (execShiftIn_of_legal s (legalShift_of_le hn)).trans (acceptReleased_driven _ _ hm hd)

/-! ### The idle clock, the turnarounds, the speed -/

theorem clockIdle_of_swclk_low (n : Nat) (l : Level) {s : State} (hclk : s.swclk = false) :
    clockIdle n l s = { setLevel l s with trace := s.trace ++ List.replicate n (levelCycle l), swclk := false } := by
  rw [clockIdle_eq]
  simp [hclk]

/-- `clock_idle` of a legal level and count (R98). -/
theorem exec_clockIdle {s : State} {n level : Nat} {l : Level} (hq : s.Quiet) (hl : levelOf level = some l)
    (hn : n ≤ 65535) : exec (.clockIdle n level) s = .next (answer .done (clockIdle n l s)) :=
  (execClockIdle_of_level s hl (legalCount_of_le hn)).trans (acceptPin_quiet _ s _ hq)

/-- Settles O17: the three codes are the three levels. -/
theorem clockIdleHoldsItsLevel : Obligations.ClockIdleHoldsItsLevel := by
  intro s n hq hn
  have ⟨⟨_, hclk⟩, _⟩ := hq
  rw [exec_clockIdle hq (l := .low) rfl hn, exec_clockIdle hq (l := .high) rfl hn, exec_clockIdle hq (l := .input) rfl hn]
  simp [clockIdle_of_swclk_low _ _ hclk, setLevel, drive, release, answer, levelCycle, hostCycle, releasedCycle, hclk]

/-- With SWCLK at rest and SWDIO released the retake adds its cycle and drives low. -/
theorem turnaroundRetake_of_swclk_low {s : State} (hd : s.swdioDir = .inp) (hclk : s.swclk = false) :
    turnaroundRetake s = { s with swdioDir := .out, swdioOut := false, trace := s.trace ++ [releasedCycle] } := by
  rw [turnaroundRetake_eq s hd]
  simp [hclk]

/-- Settles O19: the pulse comes before the level, so its cycle is released. -/
theorem turnaroundRetakeDrivesLow : Obligations.TurnaroundRetakeDrivesLow := by
  intro s hq hd
  have ⟨⟨_, hclk⟩, _⟩ := hq
  calc exec .turnaroundRetake s
      = .next (answer .done (turnaroundRetake s)) := acceptReleased_quiet true s _ hq hd
    _ = _ := by rw [turnaroundRetake_of_swclk_low hd hclk]; rfl

/-- Settles O20: each direction of the field is the turnaround command of that direction. -/
theorem turnaroundFieldInBothDirections : Obligations.TurnaroundFieldInBothDirections :=
  fun s hq => ⟨turnaroundReleaseGivesTheLine s hq, turnaroundRetakeDrivesLow s hq⟩

/-- Settles O21: the four codes are speeds, and the command does not clock. -/
theorem setSpeedChangesSpeedOnly : Obligations.SetSpeedChangesSpeedOnly := by
  intro s hp hm
  have hx (code : Nat) (sp : Speed) (h : speedOf code = some sp) :
      exec (.setSpeed code) s = .next { s with speed := sp, reply := some .done } :=
    (execSetSpeed_of_code s h).trans (acceptPin_idle _ hp hm)
  exact ⟨hx 0 .turbo rfl, hx 1 .fast rfl, hx 2 .medium rfl, hx 3 .slow rfl⟩

/-- Settles O22: both commands run the same idle clock, and each code of `post` is one line state. -/
theorem rawClockAppliesPost : Obligations.RawClockAppliesPost := by
  intro s level post count hq hlevel hpost hcount
  obtain ⟨l, hl⟩ : ∃ l, levelOf level = some l := by
    rcases levelOf_of_le_two hlevel with ⟨-, h⟩ | ⟨-, h⟩ | ⟨-, h⟩ <;> exact ⟨_, h⟩
  have hraw {q : Level} (hpq : levelOf post = some q) :
      exec (.rawClock level post count) s = .next (answer .done (setLevel q (clockIdle count l s))) :=
    (execRawClock_of_levels s hl hpq (legalCount_of_le hcount)).trans (acceptPin_quiet _ s _ hq)
  refine ⟨_, _, exec_clockIdle hq hl hcount, ?_, rfl⟩
  rcases levelOf_of_le_two hpost with ⟨rfl, h⟩ | ⟨rfl, h⟩ | ⟨rfl, h⟩ <;> exact hraw h

/-! ### The wire fields -/

/-- Settles O23: the field is the idle clock with level Low. -/
theorem idleFieldDrivesLow : Obligations.IdleFieldDrivesLow := by
  intro s hq
  have ⟨⟨_, hclk⟩, _⟩ := hq
  calc exec .idle s
      = .next (answer .done (clockIdle s.params.idleCycles .low s)) := acceptPin_quiet true s _ hq
    _ = _ := by
        rw [clockIdle_of_swclk_low _ _ hclk]
        simp [setLevel, drive, answer, levelCycle, idleRun, hclk]

/-- Settles O24: the two shifts together send the word and its parity bit. -/
theorem dataOutFieldSendsParity : Obligations.DataOutFieldSendsParity := by
  intro s v hq
  have ⟨⟨_, hclk⟩, _⟩ := hq
  calc exec (.data (.dataOut v)) s
      = .next (answer .done (shiftOutData v s)) := acceptPin_quiet true s _ hq
    _ = _ := by rw [shiftOutData_eq]; simp [answer, dataBits, hclk]

/-- The 33 sampled cycles of a DATA-IN field, as the target presents them (R72). -/
theorem shiftIn_dataBits {s : State} (hclk : s.swclk = false) (v : Word) (p : Bool) :
    shiftIn 1 (shiftIn 32 (present (dataBits v p) s)) =
      { s with trace := s.trace ++ (dataBits v p).map sampledCycle, draws := s.draws + 33 } := by
  have hbits : sampledBits 33 (present (dataBits v p) s) = dataBits v p :=
    sampledBits_line 33 _ s.line _ rfl (dataBits_length v p)
  have hdrop : (dataBits v p ++ s.line).drop 33 = s.line := List.drop_left' (dataBits_length v p)
  calc shiftIn 1 (shiftIn 32 (present (dataBits v p) s))
      = shiftIn 33 (present (dataBits v p) s) := (sampleCycles_add 32 1 _).symm
    _ = _ := by
        rw [shiftIn_of_swclk_low (s := present _ s) 33 hclk, hbits]
        simp [present, hdrop]

/-- The answer to a DATA-IN field (R73). -/
theorem dataFieldReply_dataBits (s : State) (v : Word) (p : Bool) :
    dataFieldReply (present (dataBits v p) s) = if p = par32 v then .word v else .error .readParityError := by
  have hword : dataInWord (present (dataBits v p) s) = v := by
    have h32 : sampledBits 32 (present (dataBits v p) s) = lsbFirst v 32 :=
      sampledBits_line 32 _ (p :: s.line) _ (by simp [present, dataBits]) (by simp)
    rw [dataInWord, shiftInValue, h32, ofBits_lsbFirst]
  have hpar : dataInParity (present (dataBits v p) s) = p := by
    have hline : (shiftIn 32 (present (dataBits v p) s)).line = p :: s.line := by
      rw [shiftIn, sampleCycles_eq]
      simp [dataBits]
    rw [dataInParity, nextBit, hline]
  simp only [dataFieldReply, hword, hpar, parityHolds, beq_iff_eq, eq_comm (a := par32 v)]

/-- Settles O25: the target presents the field's own bits, so they are what is sampled and checked. -/
theorem dataInFieldChecksParity : Obligations.DataInFieldChecksParity := by
  intro s v p hq hd
  have ⟨⟨_, hclk⟩, _⟩ := hq
  calc exec (.data (.dataIn v p)) s
      = .next (answer (dataFieldReply (present (dataBits v p) s))
          (shiftIn 1 (shiftIn 32 (present (dataBits v p) s)))) := acceptReleased_quiet true s _ hq hd
    _ = _ := by rw [shiftIn_dataBits hclk, dataFieldReply_dataBits]; rfl

/-! ### The fixed sequences -/

/-- The rows of the fixed sequences all run the one shared operation, with a constant of at least one bit (R75). -/
theorem exec_sequence {i : Instr} {v : Word} {n : Nat} (h : sequenceOf i = some (v, n)) :
    ∃ k, n = k + 1 ∧ ∀ s, exec i s = runSequence v n s := by
  cases i <;> simp only [sequenceOf, Option.some.injEq, Prod.mk.injEq, reduceCtorEq] at h <;>
    obtain ⟨rfl, rfl⟩ := h <;> exact ⟨_, rfl, fun _ => rfl⟩

/-- Settles O26: the constant has at least one bit, so the line is left at its last. -/
theorem fixedSequencesShiftOut : Obligations.FixedSequencesShiftOut := by
  intro s i v n hi hr
  obtain ⟨k, rfl, hx⟩ := exec_sequence hi
  have ⟨_, hclk⟩ := hr
  calc exec i s
      = .next (setMoreOwed false (answer .done (shiftOut v (k + 1) s))) := (hx s).trans (accept_ready true s _ hr)
    _ = _ := by
        rw [shiftOut_eq]
        simp [setMoreOwed, answer, shiftRun, lsbFirst, Function.comp_def, hclk]

end Sys2Proof.Machine
end

section
/-! PROOFS. What a command can do: the acceptance check and the action of every instruction, and what its next state says. The
statements about all instructions at once rest on the two inversions of `exec` here, `exec_form` and `exec_effect`. -/

namespace Sys2Proof.Machine

/-! ### Actions on the wire alone -/

/-- Only released cycles are sampled (R42). -/
def Honest (cs : List Cycle) : Prop := ∀ c ∈ cs, c.sample = none ∨ c.hold = .z

theorem Honest.nil : Honest [] := by simp [Honest]

theorem Honest.append {cs cs' : List Cycle} (h : Honest cs) (h' : Honest cs') : Honest (cs ++ cs') := by
  intro c hc
  exact (List.mem_append.mp hc).elim (h c) (h' c)

/-- The state with everything that belongs to the wire, to the answer or to the open burst set to a fixed value. -/
def offWire (s : State) : State :=
  { s with swclk := false, swdioDir := .out, swdioOut := false, trace := [], reply := none, line := [], draws := 0,
           moreOwed := false }

/-- `t` is `s` after actions on the wire: cycles at the end of the trace, SWCLK at rest again, and nothing else moved but the
pins, the environment's bits, the answer and the open burst. -/
structure WireOnly (s t : State) : Prop where
  frame : offWire t = offWire s
  trace : ∃ cs, t.trace = s.trace ++ cs ∧ Honest cs
  swclk : s.swclk = false → t.swclk = false

namespace WireOnly

theorem refl (s : State) : WireOnly s s := ⟨rfl, ⟨[], by simp, Honest.nil⟩, id⟩

variable {s m t : State}

theorem trans (h : WireOnly s m) (h' : WireOnly m t) : WireOnly s t := by
  obtain ⟨cs, hcs, hz⟩ := h.trace
  obtain ⟨cs', hcs', hz'⟩ := h'.trace
  exact ⟨h'.frame.trans h.frame, ⟨cs ++ cs', by rw [hcs', hcs, List.append_assoc], hz.append hz'⟩, h'.swclk ∘ h.swclk⟩

/-- An action without a cycle. -/
theorem still (h : WireOnly s m) (hf : offWire t = offWire m) (ht : t.trace = m.trace) (hc : t.swclk = m.swclk) :
    WireOnly s t :=
  h.trans ⟨hf, ⟨[], by simp [ht], Honest.nil⟩, hc.trans⟩

/-- An action of one cycle. -/
theorem cycle (h : WireOnly s m) (c : Cycle) (hz : c.sample = none ∨ c.hold = .z) (hf : offWire t = offWire m)
    (ht : t.trace = m.trace ++ [c]) (hc : t.swclk = false) : WireOnly s t :=
  h.trans ⟨hf, ⟨[c], ht, by simpa [Honest] using hz⟩, fun _ => hc⟩

theorem drive (h : WireOnly s m) (b : Bool) : WireOnly s (drive b m) := h.still rfl rfl rfl
theorem release (h : WireOnly s m) : WireOnly s (release m) := h.still rfl rfl rfl
theorem present (h : WireOnly s m) (bits : List Bool) : WireOnly s (present bits m) := h.still rfl rfl rfl
theorem answer (h : WireOnly s m) (r : Reply) : WireOnly s (answer r m) := h.still rfl rfl rfl
theorem setMoreOwed (h : WireOnly s m) (more : Bool) : WireOnly s (setMoreOwed more m) := h.still rfl rfl rfl
theorem pulse (h : WireOnly s m) : WireOnly s (pulse m) := h.cycle ⟨holdOf m, none⟩ (Or.inl rfl) rfl rfl rfl
theorem sampleCycle (h : WireOnly s m) : WireOnly s (sampleCycle m) :=
  h.cycle (sampledCycle (nextBit m)) (Or.inr rfl) rfl rfl rfl

theorem setLevel (h : WireOnly s m) (l : Level) : WireOnly s (setLevel l m) := by
  cases l
  · exact h.drive false
  · exact h.drive true
  · exact h.release

theorem pulses (h : WireOnly s m) (n : Nat) : WireOnly s (pulses n m) := by
  induction n generalizing m with
  | zero => exact h
  | succ n ih => exact ih h.pulse

theorem shiftOut (h : WireOnly s m) (v : Word) (n : Nat) : WireOnly s (shiftOut v n m) := by
  unfold Machine.shiftOut
  generalize lsbFirst v n = bs
  induction bs generalizing m with
  | nil => exact h
  | cons b bs ih => exact ih (h.drive b).pulse

theorem shiftIn (h : WireOnly s m) (n : Nat) : WireOnly s (shiftIn n m) := by
  unfold Machine.shiftIn
  induction n generalizing m with
  | zero => exact h
  | succ n ih => exact ih h.sampleCycle

theorem clockIdle (h : WireOnly s m) (n : Nat) (l : Level) : WireOnly s (clockIdle n l m) := (h.setLevel l).pulses n
theorem turnaroundRelease (h : WireOnly s m) : WireOnly s (turnaroundRelease m) := h.release.pulses _
theorem turnaroundRetake (h : WireOnly s m) : WireOnly s (turnaroundRetake m) := (h.pulses _).drive false
theorem shiftOutData (h : WireOnly s m) (v : Word) : WireOnly s (shiftOutData v m) := (h.shiftOut v 32).shiftOut _ 1

theorem lineResetV1 (h : WireOnly s m) : WireOnly s (lineResetV1 m) :=
  (((h.clockIdle _ _).shiftOut _ _).clockIdle _ _).clockIdle _ _

theorem lineResetV2 (h : WireOnly s m) (jtag : Bool) : WireOnly s (lineResetV2 jtag m) := by
  have hopt (u : State) (hu : WireOnly s u) : WireOnly s (optionalJtagToDormant jtag u) := by
    cases jtag
    · exact hu
    · exact hu.shiftOut _ _
  have halert (u : State) (hu : WireOnly s u) : WireOnly s (selectionAlert u) :=
    (((hu.shiftOut _ _).shiftOut _ _).shiftOut _ _).shiftOut _ _
  exact (((halert _ ((hopt _ (h.clockIdle _ _)).clockIdle _ _)).clockIdle _ _).shiftOut _ _).lineResetV1

theorem lineToDormant (h : WireOnly s m) : WireOnly s (lineToDormant m) := ((h.clockIdle _ _).shiftOut _ _).drive false

end WireOnly

/-! ### The form of every command: its acceptance check and its action -/

/-- What `exec` does with an instruction, by its family. -/
inductive Form (i : Instr) (s : State) : Prop
  | invalid (hi : i.wellFormed = false) (he : exec i s = invalidOperand s)
  | pin (hi : isPinCommand i = true) (hw : i.wellFormed = true) (clocks : Bool) (r : Reply) (go : State) (hgo : WireOnly s go)
      (he : exec i s = acceptPin clocks s (answer r go))
  | released (hi : isPinCommand i = true) (hw : i.wellFormed = true) (clocks : Bool) (r : Reply) (go : State)
      (hgo : WireOnly s go) (he : exec i s = acceptReleased clocks s (answer r go))
  | speed (code : Nat) (hi : i = .setSpeed code) (hw : i.wellFormed = true) (sp : Speed)
      (he : exec i s = acceptPin false s (answer .done { s with speed := sp }))
  | line (hi : isLineSequence i = true) (go : State) (hgo : WireOnly s go)
      (he : exec i s = accept true s (setMoreOwed false (answer .done go)))
  | transaction (d : Descriptor) (bits : List Bool) (hi : transactionOf s.params i = some (d, bits))
  | connect (kind : ResetKind) (jtag : Bool) (hi : i = .connect kind jtag)
  | disconnect (hi : i = .disconnect)
  | abort (hi : i = .abortAndClear)

theorem exec_form (i : Instr) (s : State) : Form i s := by
  have h := WireOnly.refl s
  cases i with
  | data f =>
    cases f with
    | dataOut data => exact .pin rfl rfl _ _ _ (h.shiftOutData data) rfl
    | dataIn data p => exact .released rfl rfl _ _ _ (((h.present _).shiftIn 32).shiftIn 1) rfl
  | trn k =>
    cases k with
    | release => exact .pin rfl rfl _ _ _ h.turnaroundRelease rfl
    | retake => exact .released rfl rfl _ _ _ h.turnaroundRetake rfl
  | idle => exact .pin rfl rfl _ _ _ (h.clockIdle _ _) rfl
  | resetV1 => exact .line rfl _ h.lineResetV1 rfl
  | resetV2 => exact .line rfl _ (h.lineResetV2 false) rfl
  | resetV2Jtag => exact .line rfl _ (h.lineResetV2 true) rfl
  | swdToDormant => exact .line rfl _ h.lineToDormant rfl
  | seqJtagToSwd => exact .line rfl _ (h.shiftOut _ _) rfl
  | seqJtagToDormant => exact .line rfl _ (h.shiftOut _ _) rfl
  | seqAlertWord0 => exact .line rfl _ (h.shiftOut _ _) rfl
  | seqAlertWord1 => exact .line rfl _ (h.shiftOut _ _) rfl
  | seqAlertWord2 => exact .line rfl _ (h.shiftOut _ _) rfl
  | seqAlertWord3 => exact .line rfl _ (h.shiftOut _ _) rfl
  | seqSwdActivation => exact .line rfl _ (h.shiftOut _ _) rfl
  | seqSwdToDormant => exact .line rfl _ (h.shiftOut _ _) rfl
  | setSwdioOut level =>
    cases hl : outLevelOf level with
    | none => exact .invalid (by simp [Instr.wellFormed, hl]) (by simp [exec, execSetSwdioOut, hl])
    | some b => exact .pin rfl (by simp [Instr.wellFormed, hl]) _ _ _ (h.drive b) (execSetSwdioOut_of_level s hl)
  | setSwdioIn => exact .pin rfl rfl _ _ _ h.release rfl
  | clockPulse => exact .pin rfl rfl _ _ _ h.pulse rfl
  | shiftOut bits n =>
    by_cases hn : legalShift n = true
    · exact .pin rfl hn _ _ _ (h.shiftOut bits n) (if_pos hn)
    · exact .invalid (by simpa [Instr.wellFormed] using hn) (if_neg hn)
  | shiftIn n =>
    by_cases hn : legalShift n = true
    · exact .released rfl hn _ _ _ (h.shiftIn n) (if_pos hn)
    · exact .invalid (by simpa [Instr.wellFormed] using hn) (if_neg hn)
  | clockIdle n level =>
    cases hl : levelOf level with
    | none => exact .invalid (by simp [Instr.wellFormed, hl]) (by simp [exec, execClockIdle, hl])
    | some l =>
      by_cases hn : legalCount n = true
      · exact .pin rfl (by simp [Instr.wellFormed, hl, hn]) _ _ _ (h.clockIdle n l) (execClockIdle_of_level s hl hn)
      · exact .invalid (by simp [Instr.wellFormed, hn]) (by simp [exec, execClockIdle, hl, hn])
  | turnaroundRelease => exact .pin rfl rfl _ _ _ h.turnaroundRelease rfl
  | turnaroundRetake => exact .released rfl rfl _ _ _ h.turnaroundRetake rfl
  | setSpeed code =>
    cases hc : speedOf code with
    | none => exact .invalid (by simp [Instr.wellFormed, hc]) (by simp [exec, execSetSpeed, hc])
    | some sp => exact .speed code rfl (by simp [Instr.wellFormed, hc]) sp (execSetSpeed_of_code s hc)
  | rawClock level post count =>
    cases hl : levelOf level with
    | none => exact .invalid (by simp [Instr.wellFormed, hl]) (by simp [exec, execRawClock, hl])
    | some l =>
      cases hq : levelOf post with
      | none => exact .invalid (by simp [Instr.wellFormed, hq]) (by simp [exec, execRawClock, hq])
      | some q =>
        by_cases hn : legalCount count = true
        · exact .pin rfl (by simp [Instr.wellFormed, hl, hq, hn]) _ _ _ ((h.clockIdle count l).setLevel q)
            (execRawClock_of_levels s hl hq hn)
        · exact .invalid (by simp [Instr.wellFormed, hn]) (by simp [exec, execRawClock, hl, hq, hn])
  | connect kind jtag => exact .connect kind jtag rfl
  | disconnect => exact .disconnect rfl
  | abortAndClear => exact .abort rfl
  | _ => exact .transaction _ _ rfl

/-- A transaction row is of no other family. -/
theorem not_pin_or_line_of_transaction {p : Params} {i : Instr} {x : Descriptor × List Bool}
    (h : transactionOf p i = some x) : isPinCommand i = false ∧ isLineSequence i = false := by
  revert h
  cases i <;> simp [transactionOf, isPinCommand, isLineSequence, sequenceOf]

theorem not_line_of_pin {i : Instr} (h : isPinCommand i = true) : isLineSequence i = false := by
  revert h
  cases i <;> simp [isPinCommand, isLineSequence, sequenceOf]

/-- The address of an operation byte's row is legal (R47, R63). -/
theorem legalAddr_row (bank : BitVec 4) {low : Nat} (halign : low % 4 = 0) (hlow : low < 16) :
    legalAddr (16 * bank.toNat + low) = true := by
  have := bank.isLt
  simp only [legalAddr, Bool.and_eq_true, decide_eq_true_eq]
  omega

/-- Of a transaction's operands only the address can be out of range (R207). -/
theorem wellFormed_of_transaction {p : Params} {i : Instr} {d : Descriptor} {bits : List Bool}
    (h : transactionOf p i = some (d, bits)) : i.wellFormed = legalAddr d.addr := by
  cases i <;> simp only [transactionOf, Option.some.injEq, Prod.mk.injEq, reduceCtorEq] at h <;> obtain ⟨rfl, rfl⟩ := h <;>
    simp only [Instr.wellFormed, legalAddr_row, Nat.zero_mod, Nat.reduceMod, Nat.reduceLT]

theorem wellFormed_of_line {i : Instr} (h : isLineSequence i = true) : i.wellFormed = true := by
  revert h
  cases i <;> simp [isLineSequence, sequenceOf, Instr.wellFormed]

/-! ### The next state of every command -/

/-- A field that does not belong to the wire is read off the frame. -/
theorem WireOnly.field {s t : State} {α : Type} (h : WireOnly s t) (f : State → α) : f (offWire t) = f (offWire s) :=
  congrArg f h.frame

/-- The fields that an action on the wire leaves alone. -/
theorem WireOnly.session {s t : State} (h : WireOnly s t) :
    t.connState = s.connState ∧ t.idcode = s.idcode ∧ t.ackCount = s.ackCount ∧ t.txn = s.txn ∧ t.phase = s.phase :=
  ⟨h.field State.connState, h.field State.idcode, h.field State.ackCount, h.field State.txn, h.field State.phase⟩

theorem WireOnly.speed {s t : State} (h : WireOnly s t) : t.speed = s.speed := h.field State.speed

/-- The next state of a transaction row, for every sequence of draws (R137, R143, R190). -/
theorem exec_transaction_next {s t : State} {i : Instr} {d : Descriptor} {bits : List Bool}
    (hi : transactionOf s.params i = some (d, bits)) (h : exec i s = .next t) :
    (i.wellFormed = false ∧ t = answer (.error .invalidOperand) s) ∨ ∃ r cs n a, Honest cs ∧
      t = setMoreOwed d.more (answer (replyOf r) (settled (present bits s) cs n a (outcomeState r s.connState))) := by
  rw [exec_transaction hi] at h
  rcases runTransaction_next h with ⟨ha, ht⟩ | ⟨ha, hadm, hr, -⟩
  · exact Or.inl ⟨(wellFormed_of_transaction hi).trans ha, ht⟩
  · obtain ⟨r, cs, n, a, hrun, -, -, -, hcs, -⟩ := runTransaction_spec d bits s ha hr hadm
    refine Or.inr ⟨r, _, n, a, ?_, (Host.Outcome.next.inj (hrun.symm.trans h)).symm⟩
    exact Honest.append hcs fun c hc => Or.inl (trailOf_unsampled _ _ _ c hc)

/-- The next state of `connect` (R182 to R185). -/
theorem exec_connect_next {s t : State} {kind : ResetKind} {jtag : Bool} (h : exec (.connect kind jtag) s = .next t) :
    ∃ r cs n a c id, Honest cs ∧ t = setMoreOwed false (answer r { settled s cs n a c with idcode := id }) ∧
      ((∃ v, r = .word v ∧ c = .connected ∧ id = some v) ∨ ((∃ e, r = .error e) ∧ c = .disconnected ∧ id = none)) := by
  obtain ⟨r, cs, n, a, st, hseq, hst, hcase, -, -, hcs⟩ := connectSequence_spec kind jtag s
  obtain ⟨-, -, rfl⟩ := accept_next h
  rw [hseq]
  exact ⟨r, cs, n, a, st.connState, st.idcode, hcs, by rw [← hst], hcase⟩

/-- The connection state after a transaction that ends with an error (R190). -/
def errorState (c : ConnState) : CommandError → ConnState
  | .faultAcknowledge => faultedFrom c
  | .badAcknowledge _ => faultedFrom c
  | _ => c

/-- The connection state after `abort_and_clear`, by its answer (R188, R189). -/
def abortState (c : ConnState) : Reply → ConnState
  | .word _ => if c = .faulted then .connected else c
  | .error e => errorState c e
  | .done => c

/-- The next state of `abort_and_clear` (R188, R189). -/
theorem exec_abort_next {s t : State} (h : exec .abortAndClear s = .next t) :
    ∃ r cs n a, Honest cs ∧ t = setMoreOwed false (answer r (settled s cs n a (abortState s.connState r))) ∧
      ((∃ v, r = .word v) ∨ ∃ e, r = .error e) := by
  obtain ⟨r, cs, n, a, c, hseq, hcase, -, -, hcs⟩ := abortSequence_spec s
  obtain ⟨-, -, rfl⟩ := accept_next h
  rw [hseq]
  rcases hcase with ⟨v, rfl, rfl⟩ | ⟨e, rfl, rfl⟩
  · exact ⟨_, cs, n, a, hcs, rfl, Or.inl ⟨v, rfl⟩⟩
  · exact ⟨_, cs, n, a, hcs, by cases e <;> rfl, Or.inr ⟨e, rfl⟩⟩

/-- What a next state says of a command, by the command's family: the one inversion of `exec`. A wire action here is a pin
command, a line sequence or an operand error. -/
inductive Effect (i : Instr) (s t : State) : Prop
  | wire (ht : WireOnly s t) (hr : t.reply.isSome = true)
  | speed (code : Nat) (hi : i = .setSpeed code) (sp : Speed) (ht : t = answer .done { s with speed := sp })
  | transaction (d : Descriptor) (bits : List Bool) (hi : transactionOf s.params i = some (d, bits)) (r : AttemptResult)
      (cs : List Cycle) (n a : Nat) (hcs : Honest cs)
      (ht : t = setMoreOwed d.more (answer (replyOf r) (settled (present bits s) cs n a (outcomeState r s.connState))))
  | connect (kind : ResetKind) (jtag : Bool) (hi : i = .connect kind jtag) (r : Reply) (cs : List Cycle) (n a : Nat)
      (c : ConnState) (id : Option Word) (hcs : Honest cs)
      (ht : t = setMoreOwed false (answer r { settled s cs n a c with idcode := id }))
      (hcase : (∃ v, r = .word v ∧ c = .connected ∧ id = some v) ∨
        ((∃ e, r = .error e) ∧ c = .disconnected ∧ id = none))
  | disconnect (hi : i = .disconnect) (ht : t = answer .done (dropConnection s))
  | abort (hi : i = .abortAndClear) (r : Reply) (cs : List Cycle) (n a : Nat) (hcs : Honest cs)
      (ht : t = setMoreOwed false (answer r (settled s cs n a (abortState s.connState r))))

theorem exec_effect {i : Instr} {s t : State} (h : exec i s = .next t) : Effect i s t := by
  have hinvalid : WireOnly s (answer (.error .invalidOperand) s) := (WireOnly.refl s).answer _
  cases exec_form i s with
  | invalid _ he =>
    cases he.symm.trans h
    exact .wire hinvalid rfl
  | pin _ _ _ r go hgo he =>
    obtain ⟨-, -, -, rfl⟩ := acceptPin_next (he.symm.trans h)
    exact .wire (hgo.answer r) rfl
  | released _ _ _ r go hgo he =>
    obtain ⟨-, -, -, -, rfl⟩ := acceptReleased_next (he.symm.trans h)
    exact .wire (hgo.answer r) rfl
  | speed code hi _ sp he =>
    obtain ⟨-, -, -, ht⟩ := acceptPin_next (he.symm.trans h)
    exact .speed code hi sp ht
  | line _ go hgo he =>
    obtain ⟨-, -, rfl⟩ := accept_next (he.symm.trans h)
    exact .wire ((hgo.answer .done).setMoreOwed false) rfl
  | transaction d bits hi =>
    rcases exec_transaction_next hi h with ⟨-, rfl⟩ | ⟨r, cs, n, a, hcs, ht⟩
    · exact .wire hinvalid rfl
    · exact .transaction d bits hi r cs n a hcs ht
  | connect kind jtag hi =>
    subst hi
    obtain ⟨r, cs, n, a, c, id, hcs, ht, hcase⟩ := exec_connect_next h
    exact .connect kind jtag rfl r cs n a c id hcs ht hcase
  | disconnect hi =>
    subst hi
    obtain ⟨-, -, -, ht⟩ := acceptPin_next h
    exact .disconnect rfl ht
  | abort hi =>
    subst hi
    obtain ⟨r, cs, n, a, hcs, ht, -⟩ := exec_abort_next h
    exact .abort rfl r cs n a hcs ht

end Sys2Proof.Machine
end

section
/-! PROOFS. The statements about the machine that speak of all instructions at once (spec/10_state.md, spec/43_connection_fsm.md
section 4, spec/60_exceptions.md, spec/70_reset_and_hazards.md section 3), each from what a command can do. -/

namespace Sys2Proof.Machine

/-! ### Refusals and operand errors over all instructions -/

/-- Settles O37: the check of the operands comes first in every form that has one. -/
theorem invalidOperandChangesNothing : Obligations.InvalidOperandChangesNothing := by
  intro s i hw
  cases exec_form i s with
  | invalid _ he => exact he
  | pin _ hw' => simp [hw] at hw'
  | released _ hw' => simp [hw] at hw'
  | speed _ _ hw' => simp [hw] at hw'
  | line hi => simp [wellFormed_of_line hi] at hw
  | transaction d bits hi =>
    have ha : legalAddr d.addr = false := (wellFormed_of_transaction hi).symm.trans hw
    rw [exec_transaction hi, runTransaction, ha]
    rfl
  | connect kind jtag hi => simp [hi, Instr.wellFormed] at hw
  | disconnect hi => simp [hi, Instr.wellFormed] at hw
  | abort hi => simp [hi, Instr.wellFormed] at hw

theorem acceptPin_owed {s : State} (clocks : Bool) (go : State) (hm : s.moreOwed = true) :
    acceptPin clocks s go = .refused .successorOwed := if_pos hm

theorem acceptReleased_owed {s : State} (clocks : Bool) (go : State) (hm : s.moreOwed = true) :
    acceptReleased clocks s go = .refused .successorOwed := if_pos hm

/-- Settles O38: both checks of the pin commands ask for the open burst first. -/
theorem openBurstOwesASuccessor : Obligations.OpenBurstOwesASuccessor := by
  intro s i hm hw hi
  cases exec_form i s with
  | invalid hw' => simp [hw] at hw'
  | pin _ _ _ _ _ _ he => exact he.trans (acceptPin_owed _ _ hm)
  | released _ _ _ _ _ _ he => exact he.trans (acceptReleased_owed _ _ hm)
  | speed _ _ _ _ he => exact he.trans (acceptPin_owed _ _ hm)
  | line hl =>
    rcases hi with hi | rfl
    · simp [not_line_of_pin hi] at hl
    · cases hl
  | transaction d bits htr =>
    rcases hi with hi | rfl
    · simp [not_pin_or_line_of_transaction htr] at hi
    · cases htr
  | connect kind jtag hc => simp [hc, isPinCommand] at hi
  | disconnect hd =>
    subst hd
    exact acceptPin_owed false _ hm
  | abort ha => simp [ha, isPinCommand] at hi

/-! ### What every command keeps -/

/-- What a command may do outside the session: it adds cycles to the trace and ACK phases to the counter, leaves the waiting
commands and the configuration alone, gives an answer, and comes to rest if it began at rest. -/
structure Extends (s t : State) : Prop where
  trace : ∃ cs, t.trace = s.trace ++ cs ∧ Honest cs
  port : t.port = s.port
  waitRetries : t.waitRetries = s.waitRetries
  params : t.params = s.params
  ackCount : s.ackCount ≤ t.ackCount
  reply : t.reply.isSome = true
  swclk : s.swclk = false → t.swclk = false
  phase : s.phase = .idle → t.phase = .idle
  txn : s.txn = none → t.txn = none

theorem WireOnly.toExtends {s t : State} (h : WireOnly s t) (hr : t.reply.isSome = true) : Extends s t := by
  obtain ⟨-, -, hack, htxn, hphase⟩ := h.session
  exact ⟨h.trace, h.field State.port, h.field State.waitRetries, h.field State.params, hack.ge, hr, h.swclk, hphase.trans,
    htxn.trans⟩

/-- The end of a link command extends the state it began in, whatever it makes of the session. -/
theorem settled_extends (s : State) (bits : List Bool) {cs : List Cycle} (n a : Nat) (c : ConnState) (id : Option Word)
    (r : Reply) (more : Bool) (hcs : Honest cs) :
    Extends s (setMoreOwed more (answer r { settled (present bits s) cs n a c with idcode := id })) :=
  ⟨⟨cs, rfl, hcs⟩, rfl, rfl, rfl, Nat.le_add_right _ _, rfl, fun _ => rfl, fun _ => rfl, fun _ => rfl⟩

theorem exec_extends {i : Instr} {s t : State} (h : exec i s = .next t) : Extends s t := by
  cases exec_effect h with
  | wire ht hr => exact ht.toExtends hr
  | speed code hi sp ht =>
    subst ht
    exact ⟨⟨[], by simp, Honest.nil⟩, rfl, rfl, rfl, le_refl _, rfl, id, id, id⟩
  | transaction d bits hi r cs n a hcs ht => exact ht ▸ settled_extends s bits n a _ _ _ _ hcs
  | connect kind jtag hi r cs n a c id hcs ht hcase => exact ht ▸ settled_extends s [] n a c id r false hcs
  | disconnect hi ht =>
    subst ht
    exact ⟨⟨[], by simp, Honest.nil⟩, rfl, rfl, rfl, le_refl _, rfl, id, id, id⟩
  | abort hi r cs n a hcs ht => exact ht ▸ settled_extends s [] n a _ _ r false hcs

/-- Pin commands and line sequences leave the session, the counter and the registers alone (R90, R160). -/
theorem exec_session_of_pin_or_line {i : Instr} {s t : State} (hi : isPinCommand i = true ∨ isLineSequence i = true)
    (h : exec i s = .next t) :
    t.connState = s.connState ∧ t.idcode = s.idcode ∧ t.ackCount = s.ackCount ∧ t.txn = s.txn ∧ t.phase = s.phase := by
  cases exec_effect h with
  | wire ht => exact ht.session
  | speed code hs sp ht =>
    subst ht
    exact ⟨rfl, rfl, rfl, rfl, rfl⟩
  | transaction d bits htr => simp [not_pin_or_line_of_transaction htr] at hi
  | connect kind jtag hc => simp [hc, isPinCommand, isLineSequence, sequenceOf] at hi
  | disconnect hd => simp [hd, isPinCommand, isLineSequence, sequenceOf] at hi
  | abort ha => simp [ha, isPinCommand, isLineSequence, sequenceOf] at hi

/-! ### The connection state machine -/

theorem faultedFrom_cases (c : ConnState) : faultedFrom c = c ∨ c = .connected ∧ faultedFrom c = .faulted := by
  cases c <;> simp [faultedFrom]

/-- An outcome leaves the connection state or makes Connected Faulted (R190, R191). -/
theorem outcomeState_cases (r : AttemptResult) (c : ConnState) :
    outcomeState r c = c ∨ c = .connected ∧ outcomeState r c = .faulted := by
  cases r with
  | fault => exact faultedFrom_cases c
  | protocol raw => exact faultedFrom_cases c
  | _ => exact Or.inl rfl

theorem errorState_cases (c : ConnState) (e : CommandError) :
    errorState c e = c ∨ c = .connected ∧ errorState c e = .faulted := by
  cases e with
  | faultAcknowledge => exact faultedFrom_cases c
  | badAcknowledge raw => exact faultedFrom_cases c
  | _ => exact Or.inl rfl

/-- What `abort_and_clear` makes of the connection state: as a transaction's outcome, or Faulted becomes Connected. -/
theorem abortState_cases (c : ConnState) (r : Reply) :
    abortState c r = c ∨ (c = .connected ∧ abortState c r = .faulted) ∨ (c = .faulted ∧ abortState c r = .connected) := by
  cases r with
  | done => exact Or.inl rfl
  | word v => cases c <;> simp [abortState]
  | error e => exact (errorState_cases c e).imp_right Or.inl

/-- What the commands do to the connection state and the IDCODE: one row of the transition table (R181). -/
inductive SessionMove (i : Instr) (s t : State) : Prop
  | stays (hc : t.connState = s.connState) (hid : t.idcode = s.idcode)
  | faults (hi : (transactionOf s.params i).isSome = true ∨ i = .abortAndClear) (hs : s.connState = .connected)
      (hc : t.connState = .faulted) (hid : t.idcode = s.idcode)
  | recovers (hi : i = .abortAndClear) (hs : s.connState = .faulted) (hc : t.connState = .connected)
      (hid : t.idcode = s.idcode)
  | connects (hi : ∃ kind jtag, i = .connect kind jtag) (v : Word) (hc : t.connState = .connected) (hid : t.idcode = some v)
  | drops (hi : i = .disconnect ∨ ∃ kind jtag, i = .connect kind jtag) (hc : t.connState = .disconnected)
      (hid : t.idcode = none)

theorem exec_sessionMove {i : Instr} {s t : State} (h : exec i s = .next t) : SessionMove i s t := by
  cases exec_effect h with
  | wire ht =>
    obtain ⟨hc, hid, -⟩ := ht.session
    exact .stays hc hid
  | speed code hi sp ht => exact ht ▸ .stays rfl rfl
  | transaction d bits hi r cs n a hcs ht =>
    subst ht
    rcases outcomeState_cases r s.connState with hc | ⟨hs, hc⟩
    · exact .stays hc rfl
    · exact .faults (Or.inl (by rw [hi]; rfl)) hs hc rfl
  | connect kind jtag hi r cs n a c id hcs ht hcase =>
    subst ht
    rcases hcase with ⟨v, -, rfl, rfl⟩ | ⟨-, rfl, rfl⟩
    · exact .connects ⟨kind, jtag, hi⟩ v rfl rfl
    · exact .drops (Or.inr ⟨kind, jtag, hi⟩) rfl rfl
  | disconnect hi ht => exact ht ▸ .drops (Or.inl hi) rfl rfl
  | abort hi r cs n a hcs ht =>
    subst ht
    rcases abortState_cases s.connState r with hc | ⟨hs, hc⟩ | ⟨hs, hc⟩
    · exact .stays hc rfl
    · exact .faults (Or.inr hi) hs hc rfl
    · exact .recovers hi hs hc rfl

/-! ### The step -/

theorem step_of_decodes {s : State} {k : Packet} {rest : List Packet} {i : Instr} (hp : s.port = k :: rest)
    (hd : decode k = .ok i) : step s = exec i { s with port := rest } := by
  simp only [step, nextCommand, hp, hd]

theorem step_of_undecodable {s : State} {k : Packet} {rest : List Packet} {e : DecodeError} (hp : s.port = k :: rest)
    (hd : decode k = .error e) : step s = .refused (.undecodable e) := by
  simp only [step, nextCommand, hp, hd]

theorem step_of_empty {s : State} (hp : s.port = []) : step s = .next s := by
  simp only [step, nextCommand, hp]

/-- Settles O52: one equation for each of the three cases of the port. -/
theorem stepRunsTheNextCommand : Obligations.StepRunsTheNextCommand :=
  fun _ _ _ _ _ => ⟨step_of_decodes, step_of_undecodable, step_of_empty⟩

/-- What a next state of `step` says: nothing happened, or a waiting command was executed. -/
theorem step_next {s t : State} (h : step s = .next t) :
    t = s ∨ ∃ rest i, exec i { s with port := rest } = .next t := by
  cases hp : s.port with
  | nil => exact Or.inl (Host.Outcome.next.inj ((step_of_empty hp).symm.trans h)).symm
  | cons k rest =>
    cases hd : decode k with
    | ok i => exact Or.inr ⟨rest, i, (step_of_decodes hp hd).symm.trans h⟩
    | error e => cases (step_of_undecodable hp hd).symm.trans h

/-! ### The invariant of the states between commands -/

/-- The part of the invariant that speaks of the session. -/
def SessionInv (s : State) : Prop :=
  s.connState ≠ .resetting ∧ s.connState ≠ .idCodeRead ∧ (s.idcode = none ↔ s.connState = .disconnected)

theorem SessionMove.keeps_sessionInv {i : Instr} {s t : State} (h : SessionMove i s t) (hs : SessionInv s) : SessionInv t := by
  obtain ⟨hres, hidr, hid⟩ := hs
  cases h with
  | stays hc ht => exact ⟨hc ▸ hres, hc ▸ hidr, hc ▸ ht ▸ hid⟩
  | faults _ hconn hc ht => simp [SessionInv, hc, ht, hid, hconn]
  | recovers _ hconn hc ht => simp [SessionInv, hc, ht, hid, hconn]
  | connects _ v hc ht => simp [SessionInv, hc, ht]
  | drops _ hc ht => simp [SessionInv, hc, ht]

theorem exec_keeps_inv {i : Instr} {s t : State} (hs : s.Inv) (h : exec i s = .next t) : t.Inv := by
  obtain ⟨hclk, hphase, htxn, hres, hidr, hid, hpar, htr⟩ := hs
  have hx := exec_extends h
  obtain ⟨hres', hidr', hid'⟩ := (exec_sessionMove h).keeps_sessionInv ⟨hres, hidr, hid⟩
  obtain ⟨cs, hcs, hz⟩ := hx.trace
  have htr' : Honest t.trace := hcs ▸ Honest.append htr hz
  exact ⟨hx.swclk hclk, hx.phase hphase, hx.txn htxn, hres', hidr', hid', hx.params ▸ hpar, htr'⟩

/-- Settles O51: a step does nothing or executes a command, and no part of the invariant reads the port. -/
theorem everyStepKeepsTheInvariant : Obligations.EveryStepKeepsTheInvariant := by
  intro s t hs h
  rcases step_next h with rfl | ⟨rest, i, he⟩
  · exact hs
  · exact exec_keeps_inv (s := { s with port := rest }) hs he

/-- Settles O50: the literal `State.reset` meets each clause. -/
theorem resetMeetsTheInvariant : Obligations.ResetMeetsTheInvariant := by
  unfold Obligations.ResetMeetsTheInvariant
  decide

/-- Settles O49: the fields of the literal `State.reset`. -/
theorem resetLeaves : Obligations.ResetLeaves := by
  unfold Obligations.ResetLeaves
  decide

/-! ### Frames over all instructions -/

/-- Settles O53: both clauses are kept by every command. -/
theorem traceOnlyGrows : Obligations.TraceOnlyGrows := by
  intro s t i h
  have hx := exec_extends h
  obtain ⟨cs, hcs, -⟩ := hx.trace
  exact ⟨cs, hcs, hx.port⟩

theorem exec_keeps_speed {i : Instr} {s t : State} (hi : ∀ c, i ≠ .setSpeed c) (h : exec i s = .next t) :
    t.speed = s.speed := by
  cases exec_effect h with
  | wire ht => exact ht.speed
  | speed code hs => exact absurd hs (hi code)
  | transaction d bits htr r cs n a hcs ht => exact ht ▸ rfl
  | connect kind jtag hc r cs n a c id hcs ht hcase => exact ht ▸ rfl
  | disconnect hd ht => exact ht ▸ rfl
  | abort ha r cs n a hcs ht => exact ht ▸ rfl

/-- Settles O55: no command writes the configuration, and `set_speed` is the one that writes the speed. -/
theorem configurationIsConstant : Obligations.ConfigurationIsConstant := by
  intro s t i h
  have hx := exec_extends h
  exact ⟨hx.waitRetries, hx.params, fun hi => exec_keeps_speed hi h⟩

/-- Settles O56: they act on the wire alone, and `set_speed` writes no field named here. -/
theorem pinCommandsLeaveTheSession : Obligations.PinCommandsLeaveTheSession :=
  fun _ _ _ hi h => exec_session_of_pin_or_line hi h

/-- The instructions that move the ACK counter run a transaction (R218). -/
theorem runs_transaction_of_ackCount_ne {i : Instr} {s t : State} (h : exec i s = .next t) (hne : t.ackCount ≠ s.ackCount) :
    (transactionOf s.params i).isSome = true ∨ i = .abortAndClear ∨ ∃ kind jtag, i = .connect kind jtag := by
  cases exec_effect h with
  | wire ht =>
    obtain ⟨-, -, hack, -⟩ := ht.session
    exact absurd hack hne
  | speed code hi sp ht => exact absurd (ht ▸ rfl) hne
  | transaction d bits hi => exact Or.inl (by rw [hi]; rfl)
  | connect kind jtag hi => exact Or.inr (Or.inr ⟨kind, jtag, hi⟩)
  | disconnect hi ht => exact absurd (ht ▸ rfl) hne
  | abort hi => exact Or.inr (Or.inl hi)

/-- Settles O58: `settled` adds to the counter, and no other form writes it. -/
theorem ackCountOnlyGrows : Obligations.AckCountOnlyGrows :=
  fun _ _ _ h => ⟨(exec_extends h).ackCount, runs_transaction_of_ackCount_ne h⟩

/-- Settles O60: each row of the transition table ends in the one state it names. -/
theorem connectionTransitions : Obligations.ConnectionTransitions := by
  intro s t i hres hidr h
  cases exec_sessionMove h with
  | stays hc => simp [hc, hres, hidr]
  | faults hi hs hc => simp [hc, hs, hi]
  | recovers hi hs hc => simp [hc, hs, hi]
  | connects hi v hc =>
    refine ⟨by simp [hc], by simp [hc], fun _ => ⟨fun _ => Or.inl hi, ?_, ?_⟩⟩ <;> simp [hc]
  | drops hi hc =>
    refine ⟨by simp [hc], by simp [hc], fun _ => ⟨?_, ?_, fun _ => hi⟩⟩ <;> simp [hc]

/-! ### The line at rest -/

/-- Settles O57: each line sequence ends driven low, and so does every transaction. -/
theorem linkCommandsEndAtRest : Obligations.LinkCommandsEndAtRest := by
  intro s t i hw hi h
  have hline {go : State} (hgo : go.AtRest) (h : accept true s (setMoreOwed false (answer .done go)) = .next t) :
      t.AtRest := by
    obtain ⟨-, -, rfl⟩ := accept_next h
    exact hgo
  rcases hi with hi | rfl | rfl | rfl | rfl | rfl | ⟨kind, jtag, rfl⟩
  · obtain ⟨⟨d, bits⟩, hi⟩ := Option.isSome_iff_exists.mp hi
    rcases exec_transaction_next hi h with ⟨hw', -⟩ | ⟨r, cs, n, a, -, rfl⟩
    · simp [hw] at hw'
    · rfl
  · exact hline (by rw [lineResetV1_eq]; rfl) h
  · exact hline (by rw [lineResetV2_eq]; rfl) h
  · exact hline (by rw [lineResetV2_eq]; rfl) h
  · exact hline rfl h
  · obtain ⟨r, cs, n, a, -, rfl, -⟩ := exec_abort_next h
    rfl
  · obtain ⟨r, cs, n, a, c, id, -, rfl, -⟩ := exec_connect_next h
    rfl

/-! ### Outcomes of transactions (R190, R191) -/

/-- The answers that move Connected to Faulted (R190). -/
theorem outcomeState_by_reply (r : AttemptResult) (c : ConnState) :
    outcomeState r c =
      if c = .connected ∧ (some (replyOf r) = some (.error .faultAcknowledge) ∨
        ∃ raw, some (replyOf r) = some (.error (.badAcknowledge raw)))
      then .faulted else c := by
  cases r with
  | fault => cases c <;> simp [outcomeState, replyOf, faultedFrom]
  | protocol raw => cases c <;> simp [outcomeState, replyOf, faultedFrom]
  | _ => simp [outcomeState, replyOf]

/-- The same for the transactions inside `abort_and_clear`. -/
theorem abortState_connected_by_reply {r : Reply} (hr : (∃ v, r = .word v) ∨ ∃ e, r = .error e) :
    abortState .connected r =
      if some r = some (.error .faultAcknowledge) ∨ ∃ raw, some r = some (.error (.badAcknowledge raw))
      then .faulted else .connected := by
  rcases hr with ⟨v, rfl⟩ | ⟨e, rfl⟩
  · simp [abortState]
  · cases e <;> simp [abortState, errorState, faultedFrom]

/-- Settles O35: the answer says which outcome it was. -/
theorem outcomeTracking : Obligations.OutcomeTracking := by
  refine ⟨fun s t i d bits hi h => ?_, fun s t hs h => ?_⟩
  · rcases exec_transaction_next hi h with ⟨-, rfl⟩ | ⟨r, cs, n, a, -, rfl⟩
    · simp
    · exact outcomeState_by_reply r s.connState
  · obtain ⟨r, cs, n, a, -, rfl, hr⟩ := exec_abort_next h
    rw [hs]
    exact abortState_connected_by_reply hr

/-! ### Fields that no command reads -/

theorem accept_ne_fault (clocks : Bool) (s go : State) (e : Fault) : accept clocks s go ≠ .fault e := by
  unfold accept
  split
  · simp
  · split <;> simp

theorem acceptPin_ne_fault (clocks : Bool) (s go : State) (e : Fault) : acceptPin clocks s go ≠ .fault e := by
  unfold acceptPin
  split
  · simp
  · exact accept_ne_fault clocks s go e

theorem acceptReleased_ne_fault (clocks : Bool) (s go : State) (e : Fault) : acceptReleased clocks s go ≠ .fault e := by
  unfold acceptReleased
  split
  · simp
  · split
    · simp
    · exact accept_ne_fault clocks s go e

theorem runTransaction_ne_fault (d : Descriptor) (bits : List Bool) (s : State) (e : Fault) :
    runTransaction d bits s ≠ .fault e := by
  unfold runTransaction
  split
  · unfold acceptTransaction
    split
    · simp
    · exact accept_ne_fault true s _ e
  · simp [invalidOperand]

theorem exec_ne_fault (i : Instr) (s : State) (e : Fault) : exec i s ≠ .fault e := by
  cases exec_form i s with
  | invalid _ he => simp [he, invalidOperand]
  | pin _ _ _ _ _ _ he => exact he ▸ acceptPin_ne_fault _ s _ e
  | released _ _ _ _ _ _ he => exact he ▸ acceptReleased_ne_fault _ s _ e
  | speed _ _ _ _ he => exact he ▸ acceptPin_ne_fault _ s _ e
  | line _ _ _ he => exact he ▸ accept_ne_fault true s _ e
  | transaction d bits hi => exact exec_transaction hi ▸ runTransaction_ne_fault d bits s e
  | connect kind jtag hi => exact hi ▸ accept_ne_fault true s _ e
  | disconnect hi => exact hi ▸ acceptPin_ne_fault false s _ e
  | abort hi => exact hi ▸ accept_ne_fault true s _ e

/-- No command reads the speed or the last answer, and the new answer forgets the last one; `set_speed` is the command that
forgets the speed instead. -/
theorem exec_mapUnread (f : Speed → Speed) (g : Option Reply → Option Reply) (i : Instr) (s : State)
    (hi : f = id ∨ ∀ c, i ≠ .setSpeed c) : exec i (mapUnread f g s) = mapNext (mapUnread f id) (exec i s) := by
  cases htr : transactionOf s.params i with
  | some x =>
    rw [exec_transaction htr, exec_transaction (s := mapUnread f g s) htr, runTransaction_mapUnread]
  | none =>
  cases hsq : sequenceOf i with
  | some x =>
    obtain ⟨-, -, hx⟩ := exec_sequence hsq
    rw [hx, hx, runSequence_mapUnread]
  | none =>
  cases i with
  | data f => cases f <;> simp [exec, execData]
  | trn k => cases k <;> simp [exec, execTrn]
  | idle => simp [exec, execIdle]
  | resetV1 => simp [exec, execResetV1]
  | resetV2 => simp [exec, execResetV2]
  | resetV2Jtag => simp [exec, execResetV2Jtag]
  | swdToDormant => simp [exec, execSwdToDormant]
  | setSwdioOut level => cases hl : outLevelOf level <;> simp [exec, execSetSwdioOut, hl]
  | setSwdioIn => simp [exec, execSetSwdioIn]
  | clockPulse => simp [exec, execClockPulse]
  | shiftOut bits n => cases hn : legalShift n <;> simp [exec, execShiftOut, hn]
  | shiftIn n => cases hn : legalShift n <;> simp [exec, execShiftIn, hn]
  | clockIdle n level =>
    simp only [exec, execClockIdle]
    split
    · split <;> simp
    · simp
  | turnaroundRelease => simp [exec, execTurnaroundRelease]
  | turnaroundRetake => simp [exec, execTurnaroundRetake]
  | setSpeed code =>
    obtain rfl : f = id := hi.resolve_right fun h => h code rfl
    cases hc : speedOf code with
    | none => simp [exec, execSetSpeed, hc]
    | some sp =>
      simp only [exec, execSetSpeed_of_code _ hc]
      exact acceptPin_mapUnread id g id false s (answer .done { s with speed := sp })
  | rawClock level post count =>
    simp only [exec, execRawClock]
    split
    · split <;> simp
    · simp
  | connect kind jtag => simp [exec, execConnect]
  | disconnect => simp [exec, execDisconnect]
  | abortAndClear => simp [exec, execAbortAndClear]
  | _ => simp [transactionOf, sequenceOf] at htr hsq

/-- Settles O59: the acceptance checks raise no fault, and the answer is a field that the commands write and do not read. -/
theorem noCommandFaults : Obligations.NoCommandFaults := by
  refine fun s i => ⟨exec_ne_fault i s, fun t h => (exec_extends h).reply, fun r => ?_⟩
  calc exec i { s with reply := r }
      = mapNext (mapUnread id id) (exec i s) := exec_mapUnread id (fun _ => r) i s (Or.inl rfl)
    _ = exec i s := mapNext_mapUnread_id _

/-- Settles O54: no command reads the speed, and the new answer is the same. -/
theorem speedIsTimingOnly : Obligations.SpeedIsTimingOnly :=
  fun s i sp hi => exec_mapUnread (fun _ => sp) id i s (Or.inr hi)

end Sys2Proof.Machine
end

section
/-! PROOFS. The line sequences (spec/42_line_sequences.md): each as host-driven cycles that depend on the parameters alone. -/

namespace Sys2Proof.Machine

/-- A line sequence that is accepted: its cycles, the line left driven at `b`, the burst closed. -/
theorem accept_driven {s : State} (cs : List Cycle) (b : Bool) (hr : s.Ready) :
    accept true s (setMoreOwed false (answer .done (driven s cs b))) =
      .next { s with trace := s.trace ++ cs, swdioDir := .out, swdioOut := b, moreOwed := false, reply := some .done } := by
  rw [accept_ready true s _ hr]
  simp [setMoreOwed, answer, driven, hr.2]

theorem exec_resetV1 (s : State) :
    exec .resetV1 s = accept true s (setMoreOwed false (answer .done (driven s (resetV1Cycles s.params) false))) := by
  rw [← lineResetV1_eq]
  rfl

theorem exec_resetV2 (jtag : Bool) (s : State) :
    exec (if jtag then .resetV2Jtag else .resetV2) s =
      accept true s (setMoreOwed false (answer .done (driven s (resetV2Cycles s.params jtag) false))) := by
  rw [← lineResetV2_eq]
  cases jtag <;> rfl

theorem exec_swdToDormant (s : State) :
    exec .swdToDormant s = accept true s (setMoreOwed false (answer .done (driven s (toDormantCycles s.params) false))) := by
  rw [← lineToDormant_eq]
  rfl

/-- Settles O39: its next state is that of its cycles. -/
theorem resetV1Trace : Obligations.ResetV1Trace :=
  fun s hr => (exec_resetV1 s).trans (accept_driven _ false hr)

/-- Settles O40: the optional sequence is a case of the cycles. -/
theorem resetV2Trace : Obligations.ResetV2Trace :=
  fun s jtag hr => (exec_resetV2 jtag s).trans (accept_driven _ false hr)

/-- Settles O41: the last level change adds no cycle. -/
theorem swdToDormantTrace : Obligations.SwdToDormantTrace :=
  fun s hr => (exec_swdToDormant s).trans (accept_driven _ false hr)

/-- A line sequence is a fixed list of host-driven cycles, given the parameters (R160, R170). -/
theorem exec_lineSequence {i : Instr} (hi : isLineSequence i = true) : ∃ (cs : Params → List Cycle) (b : Bool),
    ∀ s, exec i s = accept true s (setMoreOwed false (answer .done (driven s (cs s.params) b))) := by
  cases hsq : sequenceOf i with
  | some x =>
    obtain ⟨k, hk, hx⟩ := exec_sequence hsq
    refine ⟨fun _ => shiftRun x.1 (k + 1), x.1.getLsbD k, fun s => ?_⟩
    rw [hx, runSequence, hk, shiftOut_driven]
  | none =>
  cases i with
  | resetV1 => exact ⟨resetV1Cycles, false, exec_resetV1⟩
  | resetV2 => exact ⟨(resetV2Cycles · false), false, exec_resetV2 false⟩
  | resetV2Jtag => exact ⟨(resetV2Cycles · true), false, exec_resetV2 true⟩
  | swdToDormant => exact ⟨toDormantCycles, false, exec_swdToDormant⟩
  | _ => simp [isLineSequence, hsq] at hi

/-- Settles O42: acceptance and the cycles read neither the line nor the draws. -/
theorem lineSequencesIgnoreTheTarget : Obligations.LineSequencesIgnoreTheTarget := by
  intro s i line draws hi
  obtain ⟨cs, b, hx⟩ := exec_lineSequence hi
  rw [hx, hx]
  unfold accept
  dsimp only
  split
  · rfl
  · split <;> rfl

end Sys2Proof.Machine
end

section
/-! PROOFS. Transactions on a target whose answers are given, and for every sequence of draws (spec/41_link_transaction.md,
spec/60_exceptions.md). -/

namespace Sys2Proof.Machine

/-! ### The end of a transaction, by the target's last answer -/

/-- What a DATA-IN phase ends with (R128, R133). -/
def readResult (v : Word) (p : Bool) : AttemptResult := if parityHolds v p then .okRead v else .parityBad

/-- What an acknowledge that is not OK ends with (R130 to R132). -/
def shortResult (p : Params) (a : BitVec 3) : AttemptResult :=
  match decodeAck p a with
  | .wait => .wait
  | .fault => .fault
  | _ => .protocol a

theorem readResult_cases (v : Word) (p : Bool) : readResult v p = .okRead v ∨ readResult v p = .parityBad := by
  unfold readResult
  split
  · exact Or.inl rfl
  · exact Or.inr rfl

/-- A word with its own parity bit is accepted (R73). -/
theorem readResult_par32 (v : Word) : readResult v (par32 v) = .okRead v := if_pos (by simp [parityHolds])

theorem shortResult_ne_okWrite (p : Params) (a : BitVec 3) : shortResult p a ≠ .okWrite := by
  unfold shortResult
  split <;> simp

theorem shortResult_eq_wait_iff {p : Params} {a : BitVec 3} : shortResult p a = .wait ↔ decodeAck p a = .wait := by
  cases h : decodeAck p a <;> simp [shortResult, h]

/-- Only a write that sent its data has a trailing idle of its own (R140 to R142). -/
theorem trailOf_of_ne_okWrite (p : Params) (d : Descriptor) {r : AttemptResult} (h : r ≠ .okWrite) :
    trailOf p (txnOf d) r = trailRun p d.more := by
  show (if d.more then _ else _) = _
  cases r with
  | okWrite => exact absurd rfl h
  | _ => rfl

theorem outcomeState_readResult (v : Word) (p : Bool) (c : ConnState) : outcomeState (readResult v p) c = c := by
  rcases readResult_cases v p with h | h <;> rw [h] <;> rfl

section Answered

variable {s : State} {d : Descriptor} {rest : List Bool} {k : Nat}

/-- `k` WAITs and then OK with 33 data bits (R128, R137, R143). -/
theorem transact_read {v : Word} {p : Bool} (hacc : d.access = .read) (hc : s.params.Constrained) (hk : k ≤ s.waitRetries)
    (hl : s.line = waitBits s.params k ++ (lsbFirst s.params.ackOk 3 ++ (dataBits v p ++ rest))) :
    transact (txnOf d) s = (replyOf (readResult v p),
      settled s (waitAttempts s.params d k ++ readAttempt d s.params.ackOk v p ++ trailRun s.params d.more)
        (3 * k + 36) (k + 1) s.connState) := by
  obtain ⟨-, -, -, -, -, hokWait, -⟩ := hc
  have hne : readResult v p ≠ .okWrite ∧ readResult v p ≠ .wait := by
    rcases readResult_cases v p with h | h <;> simp [h]
  have hlast (s' : State) (hp : s'.params = s.params)
      (hl' : s'.line = lsbFirst s.params.ackOk 3 ++ (dataBits v p ++ rest)) :
      resultOf (txnOf d) s' = readResult v p ∧ cyclesOf (txnOf d) s' = readAttempt d s.params.ackOk v p ∧
        samplesOf (txnOf d) s' = 36 := by
    obtain ⟨hr, hcy, hn⟩ := last_read (txnOf d) s' v p rest hacc (decodeAck_ok _) (by rw [hp]; exact hl')
    refine ⟨hr, ?_, hn⟩
    rw [hcy, hp, ← List.append_assoc]
    rfl
  rw [transact_answered (txnOf d) k s _ _ _ 36 hk (decodeAck_wait _ hokWait) hl (Or.inl hne.2) hlast,
    trailOf_of_ne_okWrite _ _ hne.1, outcomeState_readResult]
  rfl

/-- `k` WAITs and then OK to a write (R129, R137, R143). -/
theorem transact_write {v : Word} (hacc : d.access = .write v) (hc : s.params.Constrained) (hk : k ≤ s.waitRetries)
    (hl : s.line = waitBits s.params k ++ (lsbFirst s.params.ackOk 3 ++ rest)) :
    transact (txnOf d) s = (.done,
      settled s (waitAttempts s.params d k ++ writeAttempt d s.params.ackOk v ++ writeTrailRun s.params d.more)
        (3 * k + 3) (k + 1) s.connState) := by
  obtain ⟨-, -, -, -, -, hokWait, -⟩ := hc
  have hlast (s' : State) (hp : s'.params = s.params) (hl' : s'.line = lsbFirst s.params.ackOk 3 ++ rest) :
      resultOf (txnOf d) s' = .okWrite ∧ cyclesOf (txnOf d) s' = writeAttempt d s.params.ackOk v ∧
        samplesOf (txnOf d) s' = 3 := by
    obtain ⟨hr, hcy, hn⟩ := last_write (txnOf d) s' v rest hacc (decodeAck_ok _) (by rw [hp]; exact hl')
    refine ⟨hr, ?_, hn⟩
    rw [hcy, hp]
    rfl
  rw [transact_answered (txnOf d) k s _ .okWrite _ 3 hk (decodeAck_wait _ hokWait) hl (Or.inl (by simp)) hlast]
  rfl

/-- `k` WAITs and then an acknowledge that is not OK; it may be one more WAIT when the retries are used up (R130 to R132, R137 to
R139, R143). -/
theorem transact_short {a : BitVec 3} (ha : a ≠ s.params.ackOk) (hw : a ≠ s.params.ackWait ∨ k = s.waitRetries)
    (hc : s.params.Constrained) (hk : k ≤ s.waitRetries)
    (hl : s.line = waitBits s.params k ++ (lsbFirst a 3 ++ rest)) :
    transact (txnOf d) s = (replyOf (shortResult s.params a),
      settled s (waitAttempts s.params d k ++ shortAttempt d a ++ trailRun s.params d.more) (3 * k + 3) (k + 1)
        (outcomeState (shortResult s.params a) s.connState)) := by
  have ⟨hok, hwait, _⟩ := acknowledgeDecode s.params a hc
  obtain ⟨-, -, -, -, -, hokWait, -⟩ := hc
  have hnok : decodeAck s.params a ≠ .ok := fun h => ha (hok.mp h)
  have hnwait : shortResult s.params a ≠ .wait ∨ k = s.waitRetries := by
    exact hw.imp_left fun hne h => hne (hwait.mp (shortResult_eq_wait_iff.mp h))
  have hlast (s' : State) (hp : s'.params = s.params) (hl' : s'.line = lsbFirst a 3 ++ rest) :
      resultOf (txnOf d) s' = shortResult s.params a ∧ cyclesOf (txnOf d) s' = shortAttempt d a ∧
        samplesOf (txnOf d) s' = 3 := by
    obtain ⟨hr, hcy, hn⟩ := last_short (txnOf d) s' a rest (by rw [hp]; exact hnok) hl'
    exact ⟨by rw [hr, hp]; rfl, hcy, hn⟩
  rw [transact_answered (txnOf d) k s _ _ _ 3 hk (decodeAck_wait _ hokWait) hl hnwait hlast,
    trailOf_of_ne_okWrite _ _ (shortResult_ne_okWrite _ _)]
  rfl

end Answered

/-! ### The rows of the table on such a target -/

/-- A transaction row whose transaction is known, in a state that admits it: the whole next state (R143, R238). -/
theorem exec_of_transact {s : State} {i : Instr} {d : Descriptor} {bits rest : List Bool}
    {cs : List Cycle} {r : Reply} {n a : Nat} {c : ConnState} (hi : transactionOf s.params i = some (d, bits))
    (ha : legalAddr d.addr = true) (hr : s.Ready) (hadm : s.Admits d) (ht : transact (txnOf d) (present bits s) = (r, settled (present bits s) cs n a c))
    (hdrop : (bits ++ s.line).drop n = rest) :
    exec i s = .next { s with
      trace := s.trace ++ cs, swdioDir := .out, swdioOut := false, txn := none, ackCount := s.ackCount + a, line := rest,
      draws := s.draws + n, reply := some r, moreOwed := d.more, connState := c } := by
  have ⟨hphase, hclk⟩ := hr
  have htr : transaction d.port d.access (BitVec.ofNat 8 d.addr) d.more (present bits s) =
      setMoreOwed d.more (answer r (settled (present bits s) cs n a c)) := by
    show setMoreOwed d.more (answer (transact (txnOf d) _).1 (transact (txnOf d) _).2) = _
    rw [ht]
  rw [exec_transaction hi, runTransaction_ready d bits s ha hr hadm, htr]
  simp [setMoreOwed, answer, settled, present, hdrop, hphase, hclk]

/-- What is left of the target's bits after `k` WAITs and `n` bits more. -/
theorem drop_answered {p : Params} {k n : Nat} {x rest line : List Bool} (hn : x.length = n)
    (hl : line = waitBits p k ++ (x ++ rest)) : line.drop (3 * k + n) = rest := by
  rw [hl, ← List.append_assoc]
  exact List.drop_left' (by simp [waitBits, hn, Nat.mul_comm])

/-- The 36 bits of a read's last attempt. -/
theorem drop_answered_read {p : Params} {k : Nat} {a : BitVec 3} {v : Word} {q : Bool} {rest line : List Bool}
    (hl : line = waitBits p k ++ (lsbFirst a 3 ++ (dataBits v q ++ rest))) : line.drop (3 * k + 36) = rest :=
  drop_answered (x := lsbFirst a 3 ++ dataBits v q) (by simp) (by rw [hl, List.append_assoc])

section Rows

variable {s : State} {i : Instr} {d : Descriptor} {bits rest : List Bool} {k : Nat}
  (hi : transactionOf s.params i = some (d, bits)) (ha : legalAddr d.addr = true) (hr : s.Ready) (hadm : s.Admits d)
  (hc : s.params.Constrained) (hk : k ≤ s.waitRetries)
include hi ha hr hadm hc hk

theorem exec_read_answered {v : Word} {p : Bool} (hacc : d.access = .read)
    (hl : bits ++ s.line = waitBits s.params k ++ (lsbFirst s.params.ackOk 3 ++ (dataBits v p ++ rest))) :
    exec i s = .next { s with
      trace := s.trace ++ (waitAttempts s.params d k ++ readAttempt d s.params.ackOk v p ++ trailRun s.params d.more),
      swdioDir := .out, swdioOut := false, txn := none, ackCount := s.ackCount + (k + 1), line := rest,
      draws := s.draws + (3 * k + 36), reply := some (replyOf (readResult v p)), moreOwed := d.more } := by
  have ht := transact_read (s := present bits s) hacc hc hk hl
  exact exec_of_transact hi ha hr hadm ht (drop_answered_read hl)

theorem exec_write_answered {v : Word} (hacc : d.access = .write v)
    (hl : bits ++ s.line = waitBits s.params k ++ (lsbFirst s.params.ackOk 3 ++ rest)) :
    exec i s = .next { s with
      trace := s.trace ++ (waitAttempts s.params d k ++ writeAttempt d s.params.ackOk v ++
        writeTrailRun s.params d.more),
      swdioDir := .out, swdioOut := false, txn := none, ackCount := s.ackCount + (k + 1), line := rest,
      draws := s.draws + (3 * k + 3), reply := some .done, moreOwed := d.more } := by
  have ht := transact_write (s := present bits s) hacc hc hk hl
  exact exec_of_transact hi ha hr hadm ht (drop_answered (lsbFirst_length _ 3) hl)

theorem exec_short_answered {a : BitVec 3} (hok : a ≠ s.params.ackOk) (hw : a ≠ s.params.ackWait ∨ k = s.waitRetries)
    (hl : bits ++ s.line = waitBits s.params k ++ (lsbFirst a 3 ++ rest)) :
    exec i s = .next { s with
      trace := s.trace ++ (waitAttempts s.params d k ++ shortAttempt d a ++ trailRun s.params d.more),
      swdioDir := .out, swdioOut := false, txn := none, ackCount := s.ackCount + (k + 1), line := rest,
      draws := s.draws + (3 * k + 3), reply := some (replyOf (shortResult s.params a)), moreOwed := d.more,
      connState := outcomeState (shortResult s.params a) s.connState } := by
  have ht := transact_short (s := present bits s) (d := d) hok hw hc hk hl
  exact exec_of_transact hi ha hr hadm ht (drop_answered (lsbFirst_length _ 3) hl)

end Rows

/-- Settles O27: with the word's own parity bit the data phase succeeds. -/
theorem readReturnsTheWord : Obligations.ReadReturnsTheWord := by
  intro s i d bits rest k v hi hacc ha hr hf hc hk hl
  rw [exec_read_answered hi ha hr (Or.inl hf) hc hk hacc hl, readResult_par32]
  rfl

/-- Settles O32: with the other parity bit it does not, and the word is kept from the caller. -/
theorem parityMismatchIsAnError : Obligations.ParityMismatchIsAnError := by
  intro s i d bits rest k v hi hacc ha hr hf hc hk hl
  have hres : readResult v (!par32 v) = .parityBad := if_neg (by simp [parityHolds])
  rw [exec_read_answered hi ha hr (Or.inl hf) hc hk hacc hl, hres]
  rfl

/-- Settles O28: the data phase and its trailing idle follow the one OK. -/
theorem writeSendsItsDataOnce : Obligations.WriteSendsItsDataOnce :=
  fun _ _ _ _ _ _ _ hi hacc ha hr hadm hc hk hl => exec_write_answered hi ha hr hadm hc hk hacc hl

/-- Settles O29: FAULT is not OK and not WAIT, so it ends the retry loop. -/
theorem faultEndsTheTransaction : Obligations.FaultEndsTheTransaction := by
  intro s i d bits rest k hi ha hr hadm hc hk hl
  have ⟨_, _, _, _, _, _, hokFault, hwaitFault, _⟩ := hc
  have hres : shortResult s.params s.params.ackFault = .fault := by
    simp [shortResult, decodeAck_fault s.params hokFault hwaitFault]
  rw [exec_short_answered hi ha hr hadm hc hk hokFault.symm (Or.inl hwaitFault.symm) hl, hres]
  rfl

/-- Settles O30: so does a value that is no code, which is carried in the answer. -/
theorem protocolCarriesTheRawBits : Obligations.ProtocolCarriesTheRawBits := by
  intro s i d bits rest k raw hi ha hr hadm hc hk hok hwait hfault hl
  have hres : shortResult s.params raw = .protocol raw := by
    simp [shortResult, decodeAck_protocol s.params raw hok hwait hfault]
  rw [exec_short_answered hi ha hr hadm hc hk hok (Or.inl hwait) hl, hres]
  rfl

/-- The last of `n + 1` WAITs is the one that finds no retry left. -/
theorem waitBits_succ (p : Params) (n : Nat) (rest : List Bool) :
    waitBits p (n + 1) ++ rest = waitBits p n ++ (lsbFirst p.ackWait 3 ++ rest) := by
  simp [waitBits, List.replicate_succ']

theorem waitAttempts_succ (p : Params) (d : Descriptor) (n : Nat) :
    waitAttempts p d (n + 1) = waitAttempts p d n ++ shortAttempt d p.ackWait := by
  simp [waitAttempts, List.replicate_succ']

/-- The result of the WAIT that uses up the retries. -/
theorem shortResult_wait {p : Params} (hc : p.Constrained) : shortResult p p.ackWait = .wait := by
  obtain ⟨-, -, -, -, -, hokWait, -⟩ := hc
  exact shortResult_eq_wait_iff.mpr (decodeAck_wait p hokWait)

/-- Settles O31: the last WAIT finds no retry left. -/
theorem waitsAreBounded : Obligations.WaitsAreBounded := by
  intro s i d bits rest hi ha hr hadm hc hl
  have ⟨_, _, _, _, _, hokWait, _⟩ := hc
  rw [waitBits_succ] at hl
  rw [exec_short_answered hi ha hr hadm hc le_rfl hokWait.symm (Or.inr rfl) hl, shortResult_wait hc, waitAttempts_succ]
  rfl

/-! ### Counts -/

@[simp] theorem requestAndAck_length (d : Descriptor) (a : BitVec 3) : (requestAndAck d a).length = 12 := by
  simp [requestAndAck, requestCycles]

@[simp] theorem shortAttempt_length (d : Descriptor) (a : BitVec 3) : (shortAttempt d a).length = 13 := by
  simp [shortAttempt]

@[simp] theorem readAttempt_length (d : Descriptor) (a : BitVec 3) (v : Word) (p : Bool) :
    (readAttempt d a v p).length = 46 := by
  simp [readAttempt]

@[simp] theorem writeAttempt_length (d : Descriptor) (a : BitVec 3) (v : Word) : (writeAttempt d a v).length = 46 := by
  simp [writeAttempt]

@[simp] theorem waitAttempts_length (p : Params) (d : Descriptor) (k : Nat) : (waitAttempts p d k).length = 13 * k := by
  simp [waitAttempts, Nat.mul_comm]

@[simp] theorem trailRun_length (p : Params) (more : Bool) :
    (trailRun p more).length = if more then 0 else p.idleCycles := by
  cases more <;> simp [trailRun, idleRun]

@[simp] theorem writeTrailRun_length (p : Params) (more : Bool) :
    (writeTrailRun p more).length = if more then p.writeTrailCycles else p.idleCycles := by
  cases more <;> simp [writeTrailRun, idleRun]

/-- Settles O33: the lengths of the four whole next states. -/
theorem transactionCycleCounts : Obligations.TransactionCycleCounts := by
  intro s i d bits rest k hi ha hr hadm hc hk
  refine ⟨fun v p hacc hl => ?_, fun v hacc hl => ?_, fun raw hok hwait hl => ?_, fun hl => ?_⟩
  · exact ⟨_, exec_read_answered hi ha hr hadm hc hk hacc hl, rfl, by simp [Nat.add_assoc]⟩
  · exact ⟨_, exec_write_answered hi ha hr hadm hc hk hacc hl, rfl, by simp [Nat.add_assoc]⟩
  · exact ⟨_, exec_short_answered hi ha hr hadm hc hk hok (Or.inl hwait) hl, rfl, by simp [Nat.add_assoc]⟩
  · exact ⟨_, waitsAreBounded s i d bits rest hi ha hr hadm hc hl, rfl, by simp⟩

/-! ### For every sequence of draws -/

theorem trailOf_length_le (p : Params) (t : Txn) (r : AttemptResult) :
    (trailOf p t r).length ≤ max p.idleCycles p.writeTrailCycles := by
  unfold trailOf
  split
  · split <;> simp [idleRun]
  · simp [idleRun]

/-- The answers a transaction can end with, by its direction (R221). -/
theorem replyOf_by_direction {r : AttemptResult} {access : Access}
    (hwrite : (∃ v, access = .write v) → r ≠ .parityBad ∧ ∀ v, r ≠ .okRead v) (hread : access = .read → r ≠ .okWrite) :
    ((access = .read ∧ ((∃ v, replyOf r = .word v) ∨ replyOf r = .error .readParityError)) ∨
      (access ≠ .read ∧ replyOf r = .done)) ∨
    replyOf r = .error .waitAcknowledge ∨ replyOf r = .error .faultAcknowledge ∨
      ∃ raw, replyOf r = .error (.badAcknowledge raw) := by
  cases access with
  | read => cases r <;> simp [replyOf] at hread ⊢
  | write data => cases r <;> simp [replyOf] at hwrite ⊢

/-- Settles O34: what a transaction leaves for any sampled bits, and its answers by direction. -/
theorem everyTransactionEnds : Obligations.EveryTransactionEnds := by
  intro s i d bits hi ha hr hadm
  obtain ⟨r, cs, n, a, hrun, ha1, ha2, -, -, hlen, -, hwrite, hread⟩ := runTransaction_spec d bits s ha hr hadm
  have htrail := trailOf_length_le s.params (txnOf d) r
  refine ⟨_, cs ++ trailOf s.params (txnOf d) r, replyOf r, (exec_transaction hi).trans hrun, rfl, ⟨rfl, rfl⟩, rfl, rfl, rfl,
    ?_, Nat.add_le_add_left ha1 _, Nat.add_le_add_left ha2 _, rfl, rfl, replyOf_by_direction hwrite hread⟩
  rw [List.length_append]
  omega

/-- Settles O36: each of the three differences makes it another transaction than the ABORT write. -/
theorem faultedOwesTheAbortWrite : Obligations.FaultedOwesTheAbortWrite := by
  intro s i d bits hi ha hs hd
  have hnot : isAbortWrite s.params d.port d.access (BitVec.ofNat 8 d.addr) = false := by
    rw [Bool.eq_false_iff, Ne, isAbortWrite_iff s.params ha]
    tauto
  rw [exec_transaction hi, runTransaction, if_pos ha, acceptTransaction, hnot, hs]
  rfl

end Sys2Proof.Machine
end

section
/-! PROOFS. `connect` and `abort_and_clear` (spec/43_connection_fsm.md sections 1 and 3). -/

namespace Sys2Proof.Machine

/-! ### connect -/

/-- The reset that `connect` begins with, issued as a command of its own (R182). -/
theorem exec_connectReset (kind : ResetKind) (jtag : Bool) (s : State) :
    exec (match kind, jtag with | .v1, _ => .resetV1 | .v2, false => .resetV2 | .v2, true => .resetV2Jtag) s =
      accept true s (setMoreOwed false (answer .done (connectReset kind jtag s))) := by
  cases kind <;> cases jtag <;> rfl

/-- The cycles of the reset depend on the parameters alone, so the moves of the connection state around it commute with it. -/
theorem connectReset_driven (kind : ResetKind) (jtag : Bool) (s : State) : ∃ cs, connectReset kind jtag s = driven s cs false ∧
    setConn .idCodeRead (connectReset kind jtag (beginConnect s)) =
      driven { s with connState := .idCodeRead, idcode := none } cs false := by
  refine ⟨_, connectReset_eq kind jtag s, ?_⟩
  rw [connectReset_eq]
  rfl

/-- The descriptor of the IDCODE read (R183). -/
def idcodeRead : Descriptor := ⟨.dp, .read, 0x00, false⟩

/-- Settles O43: the reset reads no target bit, so the read finds the whole line, and its word is the IDCODE. -/
theorem connectReadsTheIdcode : Obligations.ConnectReadsTheIdcode := by
  intro s kind jtag k v rest hr hc hk hl
  have ⟨hphase, hclk⟩ := hr
  obtain ⟨cs, hreset, hbegin⟩ := connectReset_driven kind jtag s
  have hdrop := drop_answered_read hl
  have ht := transact_read (d := idcodeRead) (s := driven { s with connState := .idCodeRead, idcode := none } cs false)
    rfl hc hk hl
  refine ⟨_, (exec_connectReset kind jtag s).trans (accept_ready true s _ hr), ?_⟩
  calc exec (.connect kind jtag) s
      = .next (setMoreOwed false (answer (connectSequence kind jtag s).1 (connectSequence kind jtag s).2)) :=
        accept_ready true s _ hr
    _ = _ := by
        rw [connectSequence, hbegin, show idcodeTxn = txnOf idcodeRead from rfl, ht, readResult_par32, hreset]
        simp [replyOf, endConnect, setMoreOwed, answer, settled, setConn, driven, idcodeRead, trailRun, hdrop, hphase, hclk]

/-- Settles O44: the IDCODE read ends for any sampled bits, with a word or an error. -/
theorem connectAlwaysEnds : Obligations.ConnectAlwaysEnds := by
  intro s kind jtag hr
  obtain ⟨r, cs, n, a, st, hseq, hst, hcase, ha1, ha2, -⟩ := connectSequence_spec kind jtag s
  have hx : exec (.connect kind jtag) s = .next (setMoreOwed false (answer r st)) := by
    refine (accept_ready true s _ hr).trans ?_
    rw [hseq]
  have hack : st.ackCount = s.ackCount + a := by rw [hst]; rfl
  refine ⟨_, hx, by rw [hst]; rfl, ⟨by rw [hst]; rfl, by rw [hst]; rfl⟩, rfl, ?_, ?_, ?_⟩
  · rcases hcase with ⟨v, rfl, hconn, hid⟩ | ⟨⟨e, rfl⟩, hconn, hid⟩
    · exact Or.inl ⟨v, rfl, hconn, hid⟩
    · exact Or.inr ⟨e, rfl, hconn, hid⟩
  · show s.ackCount + 1 ≤ st.ackCount
    omega
  · show st.ackCount ≤ _
    omega

/-! ### abort_and_clear -/

/-- The ABORT write (R188). -/
def abortWriteOf (p : Params) : Descriptor := ⟨.dp, .write 0x1E, p.abortAddr.toNat, true⟩

/-- The CTRL/STAT read (R188). -/
def ctrlstatReadOf (p : Params) : Descriptor := ⟨.dp, .read, p.ctrlstatAddr.toNat, false⟩

theorem abortTxn_eq (p : Params) : abortTxn p = txnOf (abortWriteOf p) := by
  simp [abortTxn, txnOf, abortWriteOf, Config.abortClearValue]

theorem ctrlstatTxn_eq (p : Params) : ctrlstatTxn p = txnOf (ctrlstatReadOf p) := by
  simp [ctrlstatTxn, txnOf, ctrlstatReadOf]

/-- `abort_and_clear` is carried out in every state at rest, an open burst or not (R189). -/
theorem exec_abort {s : State} (hr : s.Ready) :
    exec .abortAndClear s = .next (setMoreOwed false (answer (abortSequence s).1 (abortSequence s).2)) :=
  accept_ready true s _ hr

/-- An ABORT write that is not acknowledged OK ends the command (R189). -/
theorem abortSequence_of_error {s t : State} {e : CommandError} (h : transact (abortTxn s.params) s = (.error e, t)) :
    abortSequence s = (.error e, t) := by
  simp only [abortSequence, h]

theorem abortSequence_of_done {s t : State} (h : transact (abortTxn s.params) s = (.done, t)) :
    abortSequence s = ((transact (ctrlstatTxn s.params) t).1,
      recover (transact (ctrlstatTxn s.params) t).1 (transact (ctrlstatTxn s.params) t).2) := by
  simp only [abortSequence, h]

/-- A word makes Faulted Connected and moves no other state (R188). -/
theorem recover_word (v : Word) (s : State) :
    recover (.word v) s = { s with connState := if s.connState = .faulted then .connected else s.connState } := by
  by_cases h : s.connState = .faulted
  · simp [recover, setConn, h]
  · have hstays : recover (.word v) s = s := by
      unfold recover
      split <;> simp_all
    rw [hstays, if_neg h]

/-- Settles O46: the OK to the ABORT write leaves the line to the read, whose word moves Faulted. -/
theorem abortAndClearRecovers : Obligations.AbortAndClearRecovers := by
  intro s v rest hr hc hl
  have ⟨hphase, hclk⟩ := hr
  have hw := transact_write (s := s) (d := abortWriteOf s.params) (k := 0) rfl hc (Nat.zero_le _) hl
  have hdrop : s.line.drop 3 = lsbFirst s.params.ackOk 3 ++ (dataBits v (par32 v) ++ rest) :=
    drop_answered (p := s.params) (k := 0) (lsbFirst_length _ 3) hl
  have hdrop' : s.line.drop 39 = rest := by
    rw [show 39 = 3 + 36 from rfl, ← List.drop_drop, hdrop, ← List.append_assoc]
    exact List.drop_left' (by simp)
  -- the state between the two transactions
  generalize hm : settled s _ _ _ _ = m at hw
  have hrd := transact_read (s := m) (d := ctrlstatReadOf s.params) (k := 0) (v := v) (p := par32 v) (rest := rest) rfl
    (by rw [← hm]; exact hc) (Nat.zero_le _) (by rw [← hm]; exact hdrop)
  rw [← abortTxn_eq] at hw
  rw [← ctrlstatTxn_eq, readResult_par32] at hrd
  rw [exec_abort hr, abortSequence_of_done hw, hrd]
  simp only [replyOf, recover_word]
  rw [← hm]
  simp [setMoreOwed, answer, settled, abortWriteOf, ctrlstatReadOf, trailRun, writeTrailRun, waitAttempts, hdrop', hphase, hclk]

/-- The answer to a failing ABORT write is an error. -/
theorem replyOf_shortResult {p : Params} {a : BitVec 3} (hc : p.Constrained) (hok : a ≠ p.ackOk) (hwait : a ≠ p.ackWait) :
    replyOf (shortResult p a) = .error (if a = p.ackFault then .faultAcknowledge else .badAcknowledge a) ∧
      ∀ c, outcomeState (shortResult p a) c = faultedFrom c := by
  have ⟨_, _, _, _, _, _, hokFault, hwaitFault, _⟩ := hc
  by_cases hf : a = p.ackFault
  · subst hf
    simp [shortResult, decodeAck_fault p hokFault hwaitFault, replyOf, outcomeState]
  · simp [shortResult, decodeAck_protocol p a hok hwait hf, replyOf, outcomeState, hf]

/-- Settles O47: an acknowledge that is not OK ends the ABORT write with an error, and with it the command. -/
theorem failingAbortWriteStops : Obligations.FailingAbortWriteStops := by
  intro s rest hr hc
  have ⟨hphase, hclk⟩ := hr
  refine ⟨fun k raw hk hok hwait hl => ?_, fun hl => ?_⟩
  · obtain ⟨hreply, hconn⟩ := replyOf_shortResult hc hok hwait
    have hdrop := drop_answered (lsbFirst_length _ 3) hl
    have ht := transact_short (s := s) (d := abortWriteOf s.params) hok (Or.inl hwait) hc hk hl
    rw [← abortTxn_eq, hreply, hconn] at ht
    rw [exec_abort hr, abortSequence_of_error ht]
    simp [setMoreOwed, answer, settled, abortWriteOf, trailRun, hdrop, hphase, hclk]
  · have ⟨_, _, _, _, _, hokWait, _⟩ := hc
    rw [waitBits_succ] at hl
    have hdrop := drop_answered (lsbFirst_length _ 3) hl
    have ht := transact_short (s := s) (d := abortWriteOf s.params) hokWait.symm (Or.inr rfl) hc le_rfl hl
    rw [← abortTxn_eq, shortResult_wait hc] at ht
    rw [exec_abort hr, abortSequence_of_error ht, waitAttempts_succ]
    simp [setMoreOwed, answer, settled, abortWriteOf, trailRun, outcomeState, hdrop, hphase, hclk, Nat.mul_add]

/-- Settles O48: what the command leaves for any sampled bits, with the state by its answer. -/
theorem abortAndClearAlwaysEnds : Obligations.AbortAndClearAlwaysEnds := by
  intro s hr
  obtain ⟨r, cs, n, a, -, ht, hcase⟩ := exec_abort_next (exec_abort hr)
  refine ⟨_, r, exec_abort hr, by rw [ht]; rfl, ⟨by rw [ht]; rfl, by rw [ht]; rfl⟩, rfl, by rw [ht]; rfl, by rw [ht]; rfl,
    hcase, fun hs => ?_⟩
  rw [ht]
  show (abortState s.connState r = .connected ↔ _) ∧ (abortState s.connState r = .faulted ↔ _)
  rw [hs]
  rcases hcase with ⟨v, rfl⟩ | ⟨e, rfl⟩
  · simp [abortState]
  · cases e <;> simp [abortState, errorState, faultedFrom]

end Sys2Proof.Machine
end
